-- ==== Sys2Proof/Word.lean ====
section
/-! DEFINITION. The widths of the core: 32-bit register words (00_scope.md R13), 16-bit samples and 8-bit display
values (00_scope.md R11). -/

namespace Sys2Proof

/-- A register of the core: 32 bits (00_scope.md R13). -/
abbrev Word := BitVec 32

/-- A sample, an element of SRC, and an accumulation result: unsigned 16 bits (00_scope.md R11). -/
abbrev Sample := BitVec 16

/-- A display value, an element of DST, and an entry of the Remap Table: unsigned 8 bits (00_scope.md R11). -/
abbrev Byte := BitVec 8

end Sys2Proof
end

