-- ==== Sys2Proof/Config.lean ====
section
/-! DEFINITION. The parameters the spec leaves open (00_scope.md R12), fixed for the life of an instance, and the
free values: what the spec calls unspecified (00_scope.md R18). -/

namespace Sys2Proof

/-- The parameters of one instance of the core (00_scope.md R12, 10_state.md R42). -/
structure Config where
  /-- IMG_W, the image width. -/
  imgW : Nat
  /-- IMG_H, the image height. -/
  imgH : Nat
  /-- SRC_WORDS, the number of 16-bit elements of SRC. -/
  srcWords : Nat
  /-- DST_BYTES, the number of 8-bit elements of DST. -/
  dstBytes : Nat
  /-- CAP_MID, the Capability Oracle's answer for the mid-tier. -/
  capMid : Bool
  /-- CAP_ADV, its answer for the advanced-gather tier. -/
  capAdv : Bool
  /-- CAP_BYTE, its answer for the byte-permute tier. -/
  capByte : Bool
  deriving DecidableEq, Repr

/-- The ranges R12 gives the parameters: IMG_W and IMG_H in 1 to 65535, SRC_WORDS and DST_BYTES in 0 to 2^32. -/
abbrev Config.WF (c : Config) : Prop :=
  1 ≤ c.imgW ∧ c.imgW ≤ 65535 ∧ 1 ≤ c.imgH ∧ c.imgH ≤ 65535 ∧ c.srcWords ≤ 2 ^ 32 ∧ c.dstBytes ≤ 2 ^ 32

/-- SCRATCH_CAP, the number of entries of each scratch memory (00_scope.md R13, 10_state.md R39). -/
def Config.scratchCap (c : Config) : Nat := c.imgW * c.imgH

/-- The instance `State.reset` stands for. DESIGN CHOICE, unsafe (log 2): the spec leaves every parameter open; these
are the extents of the programs P1 to P4 of 95_test_vectors.md with every capability present, as in its V42. -/
def Config.reference : Config where
  imgW := 4
  imgH := 3
  srcWords := 16
  dstBytes := 16
  capMid := true
  capAdv := true
  capByte := true

/-- The unspecified 8-bit values (10_state.md R34), one for each draw. A free value (log 4): no body, so nothing can be
proved of it but what holds of every byte. -/
opaque Config.freeByte : Nat → BitVec 8

/-- The unspecified 16-bit values (10_state.md R35), one for each draw. A free value (log 4). -/
opaque Config.freeSample : Nat → BitVec 16

end Sys2Proof
end

