-- ==== Sys2Proof/Syntax.lean ====
section
/-! DEFINITION. The instructions: one constructor for each row of the opcode table, the 27 command words of
30_encoding.md R106 and the 7 host transactions of R100. -/

namespace Sys2Proof

/-- A command (the meaning of a legal word written to CMD) or a host transaction. -/
inductive Instr where
  | createAuto        -- 0x00000001, R157
  | createScalar      -- 0x00000011, R158
  | createVec         -- 0x00000021, R159
  | createDirectf     -- 0x00000051, R160
  | convertAuto       -- 0x00000002, R174
  | convertScalar     -- 0x00000012, R175
  | convertVec        -- 0x00000022, R176
  | convertGather     -- 0x00000032, R177
  | convertBperm      -- 0x00000042, R178
  | convertDirectf    -- 0x00000052, R179
  | convertDirecti    -- 0x00000062, R180
  | calcvAuto         -- 0x00000003, R201
  | calcvNaive        -- 0x00000013, R202
  | calcvAvx2         -- 0x00000023, R203
  | calcvAvx2v        -- 0x00000033, R204
  | calcvAvx512       -- 0x00000043, R205
  | calchAuto         -- 0x00000004, R206
  | calchNaive        -- 0x00000014, R207
  | calchAvx2         -- 0x00000024, R208
  | calchAvx2v        -- 0x00000034, R209
  | calchAvx512       -- 0x00000044, R210
  | calcvhAuto        -- 0x00000005, R211
  | calcvhNaive       -- 0x00000015, R212
  | calcvhAvx2        -- 0x00000025, R213
  | calcvhAvx2v       -- 0x00000035, R214
  | calcvhAvx512      -- 0x00000045, R215
  | clrerr            -- 0x00000006, R230
  /-- REGW(off, data), R131. -/
  | regw (off : BitVec 12) (data : Word)
  /-- REGR(off), R132. -/
  | regr (off : BitVec 12)
  /-- SRCW(a, v), R133. -/
  | srcw (addr : Nat) (data : Sample)
  /-- SRCR(a), R134. -/
  | srcr (addr : Nat)
  /-- DSTW(a, v), R135. -/
  | dstw (addr : Nat) (data : Byte)
  /-- DSTR(a), R136. -/
  | dstr (addr : Nat)
  /-- RESET, R137. -/
  | reset
  deriving DecidableEq, Repr

end Sys2Proof
end

