-- ==== Sys2Proof/WellFormed.lean ====
section
/-! DEFINITION. Well-formed transactions, 40_host_transactions.md R138. A command has no operand to check. -/

namespace Sys2Proof

/-- A register offset is a multiple of 4; twelve bits hold 0x000 to 0xFFF, so the last one is 0xFFC (R138). -/
def offsetOk (off : BitVec 12) : Bool := off.toNat % 4 == 0

/-- R138: the offset of a REGW or REGR is a multiple of 4, the address of an SRCW or SRCR is below SRC_WORDS, that of a
DSTW or DSTR below DST_BYTES. Data fits its width by its type. -/
def Instr.wf (c : Config) (i : Instr) : Bool :=
  match i with
  | .createAuto | .createScalar | .createVec | .createDirectf => true
  | .convertAuto | .convertScalar | .convertVec | .convertGather | .convertBperm | .convertDirectf
  | .convertDirecti => true
  | .calcvAuto | .calcvNaive | .calcvAvx2 | .calcvAvx2v | .calcvAvx512 => true
  | .calchAuto | .calchNaive | .calchAvx2 | .calchAvx2v | .calchAvx512 => true
  | .calcvhAuto | .calcvhNaive | .calcvhAvx2 | .calcvhAvx2v | .calcvhAvx512 => true
  | .clrerr => true
  | .regw off _ => offsetOk off
  | .regr off => offsetOk off
  | .srcw a _ => decide (a < c.srcWords)
  | .srcr a => decide (a < c.srcWords)
  | .dstw a _ => decide (a < c.dstBytes)
  | .dstr a => decide (a < c.dstBytes)
  | .reset => true

end Sys2Proof
end

