-- ==== Sys2Proof/Decode.lean ====
section
/-! DEFINITION. The command word (30_encoding.md R101 to R108): its fields, the decoder, the encoder; and the host
transaction, the abstract record R100 gives no bits. -/

namespace Sys2Proof

/-! ## The command word -/

/-- Why a word is no command (R107). -/
inductive IllegalWord where
  /-- One of bits 31:8 is set. -/
  | zeroFieldSet
  /-- OP is 0x0 or 0x7 to 0xF. -/
  | reservedOp
  /-- STRAT is reserved for this OP. -/
  | reservedStrat
  /-- CREATE with one of the three strategies that are "Convert only". -/
  | convertOnlyStrat
  /-- CLRERR with STRAT other than 0x0. -/
  | clrerrStrat
  deriving DecidableEq, Repr

/-- OP, bits 3:0 (R101). -/
def opField (w : Word) : BitVec 4 := w.extractLsb' 0 4

/-- STRAT, bits 7:4 (R101). -/
def stratField (w : Word) : BitVec 4 := w.extractLsb' 4 4

/-- ZERO, bits 31:8 (R101). -/
def zeroField (w : Word) : BitVec 24 := w.extractLsb' 8 24

/-- OP 0x1: the strategies that apply to CREATE (R103). -/
def decodeCreate (strat : Nat) : Except IllegalWord Instr :=
  match strat with
  | 0x0 => .ok .createAuto
  | 0x1 => .ok .createScalar
  | 0x2 => .ok .createVec
  | 0x3 => .error .convertOnlyStrat
  | 0x4 => .error .convertOnlyStrat
  | 0x5 => .ok .createDirectf
  | 0x6 => .error .convertOnlyStrat
  | _ => .error .reservedStrat

/-- OP 0x2: the strategies that apply to CONVERT (R103). -/
def decodeConvert (strat : Nat) : Except IllegalWord Instr :=
  match strat with
  | 0x0 => .ok .convertAuto
  | 0x1 => .ok .convertScalar
  | 0x2 => .ok .convertVec
  | 0x3 => .ok .convertGather
  | 0x4 => .ok .convertBperm
  | 0x5 => .ok .convertDirectf
  | 0x6 => .ok .convertDirecti
  | _ => .error .reservedStrat

/-- OP 0x3: CALCV (R104). -/
def decodeCalcv (strat : Nat) : Except IllegalWord Instr :=
  match strat with
  | 0x0 => .ok .calcvAuto
  | 0x1 => .ok .calcvNaive
  | 0x2 => .ok .calcvAvx2
  | 0x3 => .ok .calcvAvx2v
  | 0x4 => .ok .calcvAvx512
  | _ => .error .reservedStrat

/-- OP 0x4: CALCH (R104). -/
def decodeCalch (strat : Nat) : Except IllegalWord Instr :=
  match strat with
  | 0x0 => .ok .calchAuto
  | 0x1 => .ok .calchNaive
  | 0x2 => .ok .calchAvx2
  | 0x3 => .ok .calchAvx2v
  | 0x4 => .ok .calchAvx512
  | _ => .error .reservedStrat

/-- OP 0x5: CALCVH (R104). -/
def decodeCalcvh (strat : Nat) : Except IllegalWord Instr :=
  match strat with
  | 0x0 => .ok .calcvhAuto
  | 0x1 => .ok .calcvhNaive
  | 0x2 => .ok .calcvhAvx2
  | 0x3 => .ok .calcvhAvx2v
  | 0x4 => .ok .calcvhAvx512
  | _ => .error .reservedStrat

/-- OP 0x6: CLRERR, whose STRAT must be 0x0 (R104). -/
def decodeClrerr (strat : Nat) : Except IllegalWord Instr :=
  match strat with
  | 0x0 => .ok .clrerr
  | _ => .error .clrerrStrat

/-- `Decode(w)` of R108: total, the command of the row of R106 whose word is `w`, or why there is none (R107). -/
def decode (w : Word) : Except IllegalWord Instr :=
  if zeroField w = 0#24 then
    match (opField w).toNat with
    | 0x1 => decodeCreate (stratField w).toNat
    | 0x2 => decodeConvert (stratField w).toNat
    | 0x3 => decodeCalcv (stratField w).toNat
    | 0x4 => decodeCalch (stratField w).toNat
    | 0x5 => decodeCalcvh (stratField w).toNat
    | 0x6 => decodeClrerr (stratField w).toNat
    | _ => .error .reservedOp
  else .error .zeroFieldSet

/-- The word with the given OP and STRAT and a zero field, `OP | (STRAT << 4)` (R101, R106). -/
def commandWord (op strat : BitVec 4) : Word := 0#24 ++ strat ++ op

/-- The command word of a command (R102 to R104, R106). A host transaction is no word: R100 gives it no bits. -/
def encode (i : Instr) : Option Word :=
  match i with
  | .createAuto => some (commandWord 0x1 0x0)
  | .createScalar => some (commandWord 0x1 0x1)
  | .createVec => some (commandWord 0x1 0x2)
  | .createDirectf => some (commandWord 0x1 0x5)
  | .convertAuto => some (commandWord 0x2 0x0)
  | .convertScalar => some (commandWord 0x2 0x1)
  | .convertVec => some (commandWord 0x2 0x2)
  | .convertGather => some (commandWord 0x2 0x3)
  | .convertBperm => some (commandWord 0x2 0x4)
  | .convertDirectf => some (commandWord 0x2 0x5)
  | .convertDirecti => some (commandWord 0x2 0x6)
  | .calcvAuto => some (commandWord 0x3 0x0)
  | .calcvNaive => some (commandWord 0x3 0x1)
  | .calcvAvx2 => some (commandWord 0x3 0x2)
  | .calcvAvx2v => some (commandWord 0x3 0x3)
  | .calcvAvx512 => some (commandWord 0x3 0x4)
  | .calchAuto => some (commandWord 0x4 0x0)
  | .calchNaive => some (commandWord 0x4 0x1)
  | .calchAvx2 => some (commandWord 0x4 0x2)
  | .calchAvx2v => some (commandWord 0x4 0x3)
  | .calchAvx512 => some (commandWord 0x4 0x4)
  | .calcvhAuto => some (commandWord 0x5 0x0)
  | .calcvhNaive => some (commandWord 0x5 0x1)
  | .calcvhAvx2 => some (commandWord 0x5 0x2)
  | .calcvhAvx2v => some (commandWord 0x5 0x3)
  | .calcvhAvx512 => some (commandWord 0x5 0x4)
  | .clrerr => some (commandWord 0x6 0x0)
  | .regw _ _ => none
  | .regr _ => none
  | .srcw _ _ => none
  | .srcr _ => none
  | .dstw _ _ => none
  | .dstr _ => none
  | .reset => none

/-- The host's question of one word of the opcode table: the command our decoder reads from a command word of `nbits`
bits, every bit above them zero. A command word is 32 bits (R101); a longer one is none. -/
def decodeTableWord (nbits w : Nat) : Option Instr :=
  if nbits ≤ 32 ∧ w < 2 ^ 32 then
    match decode (BitVec.ofNat 32 w) with
    | .ok i => some i
    | .error _ => none
  else none

/-! ## The host transaction -/

/-- The record (kind, address, data) of R100, one step of the host. -/
inductive Transaction where
  | regw (off : BitVec 12) (data : Word)
  | regr (off : BitVec 12)
  | srcw (addr : Nat) (data : Sample)
  | srcr (addr : Nat)
  | dstw (addr : Nat) (data : Byte)
  | dstr (addr : Nat)
  | reset
  deriving DecidableEq, Repr

/-- The instruction a transaction is. A REGW to CMD stays a REGW: its meaning runs `Decode(data)` (R131). -/
def decodeTransaction (t : Transaction) : Instr :=
  match t with
  | .regw off data => .regw off data
  | .regr off => .regr off
  | .srcw a v => .srcw a v
  | .srcr a => .srcr a
  | .dstw a v => .dstw a v
  | .dstr a => .dstr a
  | .reset => .reset

/-- CMD, the register offset a command word is written to (10_state.md R28). -/
def cmdOffset : BitVec 12 := 0x010#12

/-- The transaction that carries an instruction: a command travels as the data of a REGW to CMD (R100). -/
def encodeTransaction (i : Instr) : Option Transaction :=
  match i with
  | .regw off data => some (.regw off data)
  | .regr off => some (.regr off)
  | .srcw a v => some (.srcw a v)
  | .srcr a => some (.srcr a)
  | .dstw a v => some (.dstw a v)
  | .dstr a => some (.dstr a)
  | .reset => some .reset
  | .createAuto | .createScalar | .createVec | .createDirectf
  | .convertAuto | .convertScalar | .convertVec | .convertGather | .convertBperm | .convertDirectf | .convertDirecti
  | .calcvAuto | .calcvNaive | .calcvAvx2 | .calcvAvx2v | .calcvAvx512
  | .calchAuto | .calchNaive | .calchAvx2 | .calchAvx2v | .calchAvx512
  | .calcvhAuto | .calcvhNaive | .calcvhAvx2 | .calcvhAvx2v | .calcvhAvx512
  | .clrerr => (encode i).map fun w => .regw cmdOffset w

end Sys2Proof
end

