-- ==== Sys2Proof/Machine/State.lean ====
section
/-! DEFINITION. The state of one instance of the core and of SRC and DST (10_state.md R20), as plain data; the reasons
a step can stop; the state after reset (10_state.md R43). -/

namespace Sys2Proof.Machine

open Sys2Proof

/-- Memory in canonical form: (address, element) pairs, addresses strictly rising, no element equal to 0, which is what
an unlisted address holds (log 6). Elements, not bytes, are addressed (20_memory.md R76). -/
abbrev Memory (w : Nat) := List (Nat × BitVec w)

/-- The completion codes of 60_exceptions.md R240; codes 7 to 15 are "never produced". -/
inductive CompletionCode where
  | ok
  | invalidWindow
  | capMismatch
  | outOfBounds
  | illegalCmd
  | tableNotBuilt
  | badGeometry
  deriving DecidableEq, Repr

/-- The fields of STATUS (10_state.md R27); its reserved bits read 0 and have no storage. -/
structure Status where
  tableValid : Bool
  fault : Bool
  errSticky : Bool
  lastCode : CompletionCode
  lastStrat : BitVec 4
  deriving DecidableEq, Repr

/-- The three latched bits of CAP (10_state.md R24). -/
structure Cap where
  mid : Bool
  adv : Bool
  byte : Bool
  deriving DecidableEq, Repr

/-- The read-write registers (10_state.md R21, R23): the ten operand registers and the two index registers. TBL_IDX
keeps 16 bits (R34). Commands read them and never write them. -/
structure OperandRegs where
  winMin : Word
  winMax : Word
  srcBase : Word
  dstBase : Word
  length : Word
  vhSize : Word
  offsetX : Word
  offsetY : Word
  hext : Word
  vext : Word
  tblIdx : BitVec 16
  resIdx : Word
  deriving DecidableEq, Repr

/-- CUR_MIN and CUR_MAX, the window of the last successful Create (10_state.md R32). -/
structure WindowRegs where
  curMin : Word
  curMax : Word
  deriving DecidableEq, Repr

/-- The registers that describe the last successful Calc (10_state.md R33). -/
structure ResultRegs where
  vLen : Word
  hLen : Word
  resNx : Word
  resNy : Word
  resX0 : Word
  resY0 : Word
  deriving DecidableEq, Repr

/-- What a transaction returns to the host: REGR a word, SRCR a sample, DSTR a byte, the others nothing
(40_host_transactions.md R130). -/
inductive Reply where
  | nothing
  | word (v : Word)
  | sample (v : Sample)
  | byte (v : Byte)
  deriving DecidableEq, Repr

/-- No step of this machine stops with a fault: every error of the spec, the fatal ones included, is a completion code
in STATUS and the host goes on (60_exceptions.md R246, R247, R252); the FAULT state is a next state (log 12). -/
inductive Fault
  deriving DecidableEq, Repr

/-- Why a step has no meaning. All are safe: the machine stops where nothing may be concluded. -/
inductive Refusal where
  /-- Raised by an arm of `exec` that has no meaning yet (none is left). Safe. -/
  | notModelled (mnemonic : String)
  /-- Raised by REGW and REGR when the offset is no multiple of 4 (40_host_transactions.md R138). Safe. -/
  | misalignedOffset
  /-- Raised by SRCW and SRCR when the address is not below SRC_WORDS (R138). Safe. -/
  | srcAddressOutside
  /-- Raised by DSTW and DSTR when the address is not below DST_BYTES (R138). Safe. -/
  | dstAddressOutside
  deriving DecidableEq, Repr

/-- The whole state. ID, GEOM, CMD, TBL_DATA, VRES_DATA, HRES_DATA and the reserved offsets have no storage: they are
constants or windows of the register read (`readRegister`). -/
structure State where
  /-- The parameters of the instance (10_state.md R42); no step changes them. -/
  cfg : Config
  /-- CAP. -/
  cap : Cap
  /-- STATUS. -/
  status : Status
  /-- WIN_MIN to VEXT, TBL_IDX, RES_IDX. -/
  ops : OperandRegs
  /-- CUR_MIN, CUR_MAX. -/
  win : WindowRegs
  /-- V_LEN, H_LEN, RES_NX, RES_NY, RES_X0, RES_Y0. -/
  res : ResultRegs
  /-- TABLE: its entries from index 0 on, as far as they are specified; a later entry is unspecified (log 5). -/
  table : List Byte
  /-- VRES, in the same form. -/
  vres : List Sample
  /-- HRES, in the same form. -/
  hres : List Sample
  /-- SRC, the source memory (20_memory.md R71). -/
  src : Memory 16
  /-- DST, the destination memory (20_memory.md R74). -/
  dst : Memory 8
  /-- The model's own: the host's transactions still to come, the next one first (log 1). -/
  pending : List Transaction
  /-- The model's own: what the last transaction returned (log 3). -/
  reply : Reply
  /-- The model's own: how many unspecified values have been drawn so far (log 4). -/
  draws : Nat
  deriving DecidableEq, Repr

/-- STATUS after reset: 0x00000000 (10_state.md R43). -/
def Status.reset : Status where
  tableValid := false
  fault := false
  errSticky := false
  lastCode := .ok
  lastStrat := 0#4

/-- The operand and index registers after reset: all 0 (10_state.md R43). -/
def OperandRegs.reset : OperandRegs where
  winMin := 0
  winMax := 0
  srcBase := 0
  dstBase := 0
  length := 0
  vhSize := 0
  offsetX := 0
  offsetY := 0
  hext := 0
  vext := 0
  tblIdx := 0
  resIdx := 0

/-- The result registers after reset: all 0 (10_state.md R43). -/
def ResultRegs.reset : ResultRegs where
  vLen := 0
  hLen := 0
  resNx := 0
  resNy := 0
  resX0 := 0
  resY0 := 0

/-- CAP after reset: the Capability Oracle's three answers (10_state.md R24, R43). -/
def capLatch (c : Config) : Cap where
  mid := c.capMid
  adv := c.capAdv
  byte := c.capByte

/-- The machine right after reset with the parameters `c` (10_state.md R43). SRC and DST list nothing: which content they
start with is launch state (20_memory.md R71), here all 0, a DESIGN CHOICE (log 6), unsafe for claims about this one
start; so are the model's own three fields (log 1, 3, 4). -/
def State.resetWith (c : Config) : State where
  cfg := c
  cap := capLatch c
  status := .reset
  ops := .reset
  win := { curMin := 0, curMax := 0 }
  res := .reset
  table := []
  vres := []
  hres := []
  src := []
  dst := []
  pending := []
  reply := .nothing
  draws := 0

/-- The machine right after reset, for the reference instance (DESIGN CHOICE, log 2). -/
def State.reset : State := State.resetWith Config.reference

end Sys2Proof.Machine
end

