-- ==== Sys2Proof/Machine/Flags.lean ====
section
/-! DEFINITION. STATUS (10_state.md R27): the code of each completion (60_exceptions.md R240), which codes are fatal,
what each kind of completion writes (R246, R247, R249, 44_control.md R230), and the register as a word. -/

namespace Sys2Proof.Machine

open Sys2Proof

/-- The 4-bit completion code (60_exceptions.md R240). -/
def codeBits (c : CompletionCode) : BitVec 4 :=
  match c with
  | .ok => 0
  | .invalidWindow => 1
  | .capMismatch => 2
  | .outOfBounds => 3
  | .illegalCmd => 4
  | .tableNotBuilt => 5
  | .badGeometry => 6

/-- The fatal codes, 2 and 3 (60_exceptions.md R240, R247). -/
def isFatal (c : CompletionCode) : Bool :=
  match c with
  | .ok => false
  | .invalidWindow => false
  | .capMismatch => true
  | .outOfBounds => true
  | .illegalCmd => false
  | .tableNotBuilt => false
  | .badGeometry => false

/-- The recoverable codes, 1, 4, 5 and 6 (60_exceptions.md R240, R246). -/
def isRecoverable (c : CompletionCode) : Bool :=
  match c with
  | .ok => false
  | .invalidWindow => true
  | .capMismatch => false
  | .outOfBounds => false
  | .illegalCmd => true
  | .tableNotBuilt => true
  | .badGeometry => true

/-- STATUS after a command that ended with the error `c`: LAST_CODE is the code, a recoverable one sets ERR_STICKY (R246),
a fatal one sets FAULT (R247), every other field keeps its value. -/
def statusOnError (c : CompletionCode) (st : Status) : Status :=
  { st with
    lastCode := c
    errSticky := st.errSticky || isRecoverable c
    fault := st.fault || isFatal c }

/-- STATUS after an operation that succeeded with the strategy coded `strat` (R249): ERR_STICKY, FAULT and TABLE_VALID
keep their values. -/
def statusOnSuccess (strat : BitVec 4) (st : Status) : Status :=
  { st with
    lastCode := .ok
    lastStrat := strat }

/-- STATUS after CLRERR (44_control.md R230): LAST_STRAT, TABLE_VALID and FAULT keep their values. -/
def statusOnClrerr (st : Status) : Status :=
  { st with
    errSticky := false
    lastCode := .ok }

/-- One bit of a register. -/
def bit (b : Bool) : BitVec 1 := BitVec.ofBool b

/-- STATUS as the host reads it (10_state.md R27): LAST_STRAT in bits 11:8, LAST_CODE in bits 7:4, ERR_STICKY, FAULT and
TABLE_VALID in bits 2, 1 and 0, every other bit 0. -/
def statusWord (st : Status) : Word :=
  0#20 ++ st.lastStrat ++ codeBits st.lastCode ++ 0#1 ++ bit st.errSticky ++ bit st.fault ++ bit st.tableValid

end Sys2Proof.Machine
end

