-- ==== Sys2Proof/Machine/Ops.lean ====
section
/-! DEFINITION. The named operations over the state: the two memories, the free values, the outcome of a command
(success, error, the gate of the FAULT state), reset. -/

namespace Sys2Proof.Machine

open Sys2Proof

/-! ## Numbers (00_scope.md R14) -/

/-- `sext_32`: a register read as a two's-complement integer. -/
def sext32 (w : Word) : Int := w.toInt

/-- `zext_32`: a register read as a non-negative integer. -/
def zext32 (w : Word) : Int := (w.toNat : Int)

/-- `trunc_32`: the 32-bit word congruent to an integer. -/
def trunc32 (v : Int) : Word := BitVec.ofInt 32 v

/-! ## SRC and DST (20_memory.md R72, R73) -/

/-- `MemRead`: the element at address `a`; an unlisted element holds 0 (log 6). -/
def memRead {w : Nat} (m : Memory w) (a : Nat) : BitVec w :=
  match m with
  | [] => 0#w
  | (b, v) :: rest => if b = a then v else memRead rest a

/-- `MemWrite`: element `a` becomes `v`, nothing else changes, and the canonical form is kept. -/
def memWrite {w : Nat} (m : Memory w) (a : Nat) (v : BitVec w) : Memory w :=
  match m with
  | [] => if v = 0#w then [] else [(a, v)]
  | (b, u) :: rest =>
    if b < a then (b, u) :: memWrite rest a v
    else if b = a then if v = 0#w then rest else (a, v) :: rest
    else if v = 0#w then (b, u) :: rest else (a, v) :: (b, u) :: rest

/-- The canonical form: addresses strictly rising and no listed element 0. -/
abbrev Memory.wf {w : Nat} (m : Memory w) : Prop :=
  m.Pairwise (fun c d => c.1 < d.1) ∧ ∀ c ∈ m, c.2 ≠ 0#w

/-- No element outside the space of `n` elements is listed (20_memory.md R70). -/
abbrev Memory.within {w : Nat} (n : Nat) (m : Memory w) : Prop := ∀ c ∈ m, c.1 < n

/-! ## Unspecified values (00_scope.md R18) -/

/-- A fresh unspecified byte: a free value (log 4), and the draw is counted. -/
def drawByte (s : State) : Byte × State :=
  (Config.freeByte s.draws, { s with draws := s.draws + 1 })

/-- A fresh unspecified sample: a free value (log 4), and the draw is counted. -/
def drawSample (s : State) : Sample × State :=
  (Config.freeSample s.draws, { s with draws := s.draws + 1 })

/-! ## What a transaction returns, and how a command ends -/

/-- The transaction returns `r` to the host (40_host_transactions.md R130). -/
def answer (r : Reply) (s : State) : State := { s with reply := r }

/-- `raise` (00_scope.md R17): the command ends with the error `c` and nothing but STATUS changes (60_exceptions.md R246
for a recoverable code, R247 for a fatal one). This is the core's whole exception entry: R252. -/
def raise (c : CompletionCode) (s : State) : State := { s with status := statusOnError c s.status }

/-- The end of a successful operation (60_exceptions.md R249): LAST_CODE <- OK, LAST_STRAT <- the executed strategy. -/
def succeed (strat : BitVec 4) (s : State) : State := { s with status := statusOnSuccess strat s.status }

/-- CLRERR's effect (44_control.md R230): the acknowledgement of recoverable errors, all there is of a return (R253). -/
def acknowledge (s : State) : State := { s with status := statusOnClrerr s.status }

/-- The gate every command passes (10_state.md R40, 60_exceptions.md R250 step 0): in the FAULT state a REGW to CMD is
ignored. A REGW returns no value. -/
def runGated (body : State → State) (s : State) : Host.Outcome State Fault Refusal :=
  .next (answer .nothing (if s.status.fault then s else body s))

/-! ## Reset -/

/-- RESET (40_host_transactions.md R137, 10_state.md R43): every piece of core state takes its reset value, CAP is latched
again from the parameters; SRC and DST keep their content. TABLE, VRES and HRES are unspecified: they list nothing
(log 5). The parameters, the host's further transactions and the count of draws are not core state. -/
def resetCore (s : State) : State where
  cfg := s.cfg
  cap := { mid := s.cfg.capMid, adv := s.cfg.capAdv, byte := s.cfg.capByte }
  status := { tableValid := false, fault := false, errSticky := false, lastCode := .ok, lastStrat := 0#4 }
  ops :=
    { winMin := 0, winMax := 0, srcBase := 0, dstBase := 0, length := 0, vhSize := 0, offsetX := 0, offsetY := 0,
      hext := 0, vext := 0, tblIdx := 0, resIdx := 0 }
  win := { curMin := 0, curMax := 0 }
  res := { vLen := 0, hLen := 0, resNx := 0, resNy := 0, resX0 := 0, resY0 := 0 }
  table := []
  vres := []
  hres := []
  src := s.src
  dst := s.dst
  pending := s.pending
  reply := s.reply
  draws := s.draws

end Sys2Proof.Machine
end

