-- ==== Sys2Proof/Machine/Strategy.lean ====
section
/-! DEFINITION. The strategies: their codes (30_encoding.md R103, R104), the capability each needs (41_lut_create.md R155,
43_vhadd.md R198) and the auto-dispatch (R156, 42_lut_convert.md R173, 43_vhadd.md R199). A strategy decides the gate and
LAST_STRAT and no result (45_operation_classes.md R302). -/

namespace Sys2Proof.Machine

open Sys2Proof

/-- STRAT of CREATE and CONVERT (30_encoding.md R103). -/
inductive LutStrat where
  | auto
  | scalar
  | vec
  | gather
  | bperm
  | directf
  | directi
  deriving DecidableEq, Repr

/-- STRAT of CALCV, CALCH and CALCVH (30_encoding.md R104). -/
inductive VhStrat where
  | auto
  | naive
  | avx2
  | avx2v
  | avx512
  deriving DecidableEq, Repr

/-- The operations of the VHAdd Engine. -/
inductive VhOp where
  | calcv
  | calch
  | calcvh
  deriving DecidableEq, Repr

/-- The STRAT code of a LUT strategy (30_encoding.md R103). -/
def lutCode (st : LutStrat) : BitVec 4 :=
  match st with
  | .auto => 0
  | .scalar => 1
  | .vec => 2
  | .gather => 3
  | .bperm => 4
  | .directf => 5
  | .directi => 6

/-- The STRAT code of a VHAdd strategy (30_encoding.md R104). -/
def vhCode (st : VhStrat) : BitVec 4 :=
  match st with
  | .auto => 0
  | .naive => 1
  | .avx2 => 2
  | .avx2v => 3
  | .avx512 => 4

/-- `LutSupported` (41_lut_create.md R155). AUTO names no strategy and is not gated. -/
def lutSupported (st : LutStrat) (c : Cap) : Bool :=
  match st with
  | .auto => true
  | .scalar => true
  | .vec => c.mid
  | .gather => c.adv
  | .bperm => c.byte
  | .directf => c.mid || c.adv || c.byte
  | .directi => c.mid || c.adv || c.byte

/-- `SelectCreate` (41_lut_create.md R156). -/
def selectCreate (c : Cap) : LutStrat :=
  if c.byte || c.adv then .directf else if c.mid then .vec else .scalar

/-- `SelectConvert` (42_lut_convert.md R173). -/
def selectConvert (c : Cap) : LutStrat :=
  if c.byte then .bperm else if c.adv then .gather else if c.mid then .vec else .scalar

/-- `VhSupported` (43_vhadd.md R198; the tier each strategy needs is marked there as general knowledge). AUTO is not
gated. -/
def vhSupported (st : VhStrat) (c : Cap) : Bool :=
  match st with
  | .auto => true
  | .naive => true
  | .avx2 => c.mid
  | .avx2v => c.mid
  | .avx512 => c.adv

/-- `SelectVH` (43_vhadd.md R199). -/
def selectVh (op : VhOp) (c : Cap) : VhStrat :=
  if c.adv then .avx512
  else if c.mid then
    match op with
    | .calcv => .avx2v
    | .calch => .avx2
    | .calcvh => .avx2
  else .naive

/-- Step 1 of `CreateCore` (41_lut_create.md R154): the strategy that runs, none for a capability mismatch. -/
def resolveCreate (st : LutStrat) (c : Cap) : Option LutStrat :=
  if st = .auto then some (selectCreate c) else if lutSupported st c then some st else none

/-- Step 1 of `ConvertCore` (42_lut_convert.md R170). -/
def resolveConvert (st : LutStrat) (c : Cap) : Option LutStrat :=
  if st = .auto then some (selectConvert c) else if lutSupported st c then some st else none

/-- Step 1 of `CalcCore` (43_vhadd.md R200). -/
def resolveVh (op : VhOp) (st : VhStrat) (c : Cap) : Option VhStrat :=
  if st = .auto then some (selectVh op c) else if vhSupported st c then some st else none

end Sys2Proof.Machine
end

