-- ==== Sys2Proof/Machine/Calc.lean ====
section
/-! DEFINITION. The image, the window geometry, the two sums and the fifteen CALCV, CALCH and CALCVH commands
(43_vhadd.md). -/

namespace Sys2Proof.Machine

open Sys2Proof

/-! ## Geometry (43_vhadd.md R191 to R193), over the integers -/

/-- The operands of a Calc command (43_vhadd.md R191). -/
structure Geometry where
  ox : Int
  oy : Int
  hx : Int
  vx : Int
  size : Int
  imgW : Int
  imgH : Int
  deriving DecidableEq, Repr

/-- The operands as the command reads them (43_vhadd.md R191). -/
def geometry (s : State) : Geometry where
  ox := sext32 s.ops.offsetX
  oy := sext32 s.ops.offsetY
  hx := zext32 s.ops.hext
  vx := zext32 s.ops.vext
  size := zext32 s.ops.vhSize
  imgW := (s.cfg.imgW : Int)
  imgH := (s.cfg.imgH : Int)

/-- x_lo (43_vhadd.md R192). -/
def xLo (g : Geometry) : Int := max 0 (-g.ox)

/-- x_hi (43_vhadd.md R192). -/
def xHi (g : Geometry) : Int := min (g.imgW - 1) (g.imgW - g.hx - g.ox)

/-- y_lo (43_vhadd.md R192). -/
def yLo (g : Geometry) : Int := max 0 (-g.oy)

/-- y_hi (43_vhadd.md R192). -/
def yHi (g : Geometry) : Int := min (g.imgH - 1) (g.imgH - g.vx - g.oy)

/-- NX, the output positions of a row (43_vhadd.md R192). -/
def nX (g : Geometry) : Int := max 0 (xHi g - xLo g + 1)

/-- NY, the output rows (43_vhadd.md R192). -/
def nY (g : Geometry) : Int := max 0 (yHi g - yLo g + 1)

/-- N, the output positions (43_vhadd.md R192). -/
def nPositions (g : Geometry) : Int := nX g * nY g

/-- max_idx, the highest linear index any window of a valid position covers (43_vhadd.md R197). -/
def maxIdx (g : Geometry) : Int := (yHi g + g.oy + g.vx - 1) * g.imgW + (xHi g + g.ox + g.hx - 1)

/-- The bounds check of 43_vhadd.md R197, made only when there is a valid position. -/
def calcOutOfBounds (s : State) : Bool :=
  decide (0 < nPositions (geometry s)) &&
    (decide ((geometry s).size ≤ maxIdx (geometry s)) ||
      decide ((s.cfg.srcWords : Int) ≤ zext32 s.ops.srcBase + maxIdx (geometry s)))

/-! ## The sums (43_vhadd.md R190, R194, R195) -/

/-- S(x, y), the sample at column x, row y, row-major from SRC_BASE (43_vhadd.md R190). -/
def sampleAt (s : State) (x y : Int) : Nat :=
  (memRead s.src (zext32 s.ops.srcBase + y * (s.cfg.imgW : Int) + x).toNat).toNat

/-- The sum of `f k` for k in 0 to n - 1. -/
def sumTo (n : Nat) (f : Nat → Nat) : Nat :=
  match n with
  | 0 => 0
  | n + 1 => sumTo n f + f n

/-- VSum(x, y): the samples going down the anchor column, mod 65536 (43_vhadd.md R194). -/
def vSum (s : State) (x y : Int) : Sample :=
  BitVec.ofNat 16
    (sumTo (geometry s).vx.toNat fun k => sampleAt s (x + (geometry s).ox) (y + (geometry s).oy + (k : Int)))

/-- HSum(x, y): the samples going right along the anchor row, mod 65536 (43_vhadd.md R195). -/
def hSum (s : State) (x y : Int) : Sample :=
  BitVec.ofNat 16
    (sumTo (geometry s).hx.toNat fun k => sampleAt s (x + (geometry s).ox + (k : Int)) (y + (geometry s).oy))

/-- The results of all valid positions in the order of 43_vhadd.md R193: entry j is that of the position
(x_lo + (j mod NX), y_lo + floor(j / NX)). -/
def positionResults (g : Geometry) (f : Int → Int → Sample) : List Sample :=
  (List.range' 0 (nPositions g).toNat).map fun (j : Nat) =>
    f (xLo g + (j : Int) % nX g) (yLo g + (j : Int) / nX g)

/-! ## The common procedure (43_vhadd.md R200) -/

/-- CALCV and CALCVH compute the vertical result. -/
def computesV (op : VhOp) : Bool :=
  match op with
  | .calcv => true
  | .calch => false
  | .calcvh => true

/-- CALCH and CALCVH compute the horizontal result. -/
def computesH (op : VhOp) : Bool :=
  match op with
  | .calcv => false
  | .calch => true
  | .calcvh => true

/-- Step 5 of `CalcCore` (43_vhadd.md R200): the scratch memory of a computed result holds its N entries and nothing
specified beyond, the other holds nothing specified (log 5); the six result registers. -/
def storeResults (op : VhOp) (s : State) : State :=
  { s with
    vres := if computesV op then positionResults (geometry s) (vSum s) else []
    hres := if computesH op then positionResults (geometry s) (hSum s) else []
    res :=
      { vLen := if computesV op then trunc32 (nPositions (geometry s)) else 0
        hLen := if computesH op then trunc32 (nPositions (geometry s)) else 0
        resNx := trunc32 (nX (geometry s))
        resNy := trunc32 (nY (geometry s))
        resX0 := trunc32 (xLo (geometry s))
        resY0 := trunc32 (yLo (geometry s)) } }

/-- `CalcCore(op, s)` (43_vhadd.md R200). -/
def calcCore (op : VhOp) (st : VhStrat) (s : State) : State :=
  match resolveVh op st s.cap with
  | none => raise .capMismatch s
  | some e =>
    if s.ops.hext = 0 ∨ s.ops.vext = 0 then raise .badGeometry s
    else if calcOutOfBounds s then raise .outOfBounds s
    else succeed (vhCode e) (storeResults op s)

/-- CALCV.AUTO (43_vhadd.md R201). -/
def execCalcvAuto (s : State) : Host.Outcome State Fault Refusal := runGated (calcCore .calcv .auto) s

/-- CALCV.NAIVE (43_vhadd.md R202). -/
def execCalcvNaive (s : State) : Host.Outcome State Fault Refusal := runGated (calcCore .calcv .naive) s

/-- CALCV.AVX2 (43_vhadd.md R203). -/
def execCalcvAvx2 (s : State) : Host.Outcome State Fault Refusal := runGated (calcCore .calcv .avx2) s

/-- CALCV.AVX2V (43_vhadd.md R204). -/
def execCalcvAvx2v (s : State) : Host.Outcome State Fault Refusal := runGated (calcCore .calcv .avx2v) s

/-- CALCV.AVX512 (43_vhadd.md R205). -/
def execCalcvAvx512 (s : State) : Host.Outcome State Fault Refusal := runGated (calcCore .calcv .avx512) s

/-- CALCH.AUTO (43_vhadd.md R206). -/
def execCalchAuto (s : State) : Host.Outcome State Fault Refusal := runGated (calcCore .calch .auto) s

/-- CALCH.NAIVE (43_vhadd.md R207). -/
def execCalchNaive (s : State) : Host.Outcome State Fault Refusal := runGated (calcCore .calch .naive) s

/-- CALCH.AVX2 (43_vhadd.md R208). -/
def execCalchAvx2 (s : State) : Host.Outcome State Fault Refusal := runGated (calcCore .calch .avx2) s

/-- CALCH.AVX2V (43_vhadd.md R209): accepted with the same result (90_conflicts.md C5). -/
def execCalchAvx2v (s : State) : Host.Outcome State Fault Refusal := runGated (calcCore .calch .avx2v) s

/-- CALCH.AVX512 (43_vhadd.md R210). -/
def execCalchAvx512 (s : State) : Host.Outcome State Fault Refusal := runGated (calcCore .calch .avx512) s

/-- CALCVH.AUTO (43_vhadd.md R211). -/
def execCalcvhAuto (s : State) : Host.Outcome State Fault Refusal := runGated (calcCore .calcvh .auto) s

/-- CALCVH.NAIVE (43_vhadd.md R212). -/
def execCalcvhNaive (s : State) : Host.Outcome State Fault Refusal := runGated (calcCore .calcvh .naive) s

/-- CALCVH.AVX2 (43_vhadd.md R213). -/
def execCalcvhAvx2 (s : State) : Host.Outcome State Fault Refusal := runGated (calcCore .calcvh .avx2) s

/-- CALCVH.AVX2V (43_vhadd.md R214): accepted with the same result (90_conflicts.md C5). -/
def execCalcvhAvx2v (s : State) : Host.Outcome State Fault Refusal := runGated (calcCore .calcvh .avx2v) s

/-- CALCVH.AVX512 (43_vhadd.md R215). -/
def execCalcvhAvx512 (s : State) : Host.Outcome State Fault Refusal := runGated (calcCore .calcvh .avx512) s

end Sys2Proof.Machine
end

