-- ==== Sys2Proof/Machine/Control.lean ====
section
/-! DEFINITION. The control command CLRERR (44_control.md) and the transaction RESET (40_host_transactions.md R137). -/

namespace Sys2Proof.Machine

open Sys2Proof

/-- CLRERR (44_control.md R230). -/
def execClrerr (s : State) : Host.Outcome State Fault Refusal := runGated acknowledge s

/-- RESET (40_host_transactions.md R137, 70_reset_and_hazards.md R281). It returns no value, and it is the only way out of
the FAULT state. -/
def execReset (s : State) : Host.Outcome State Fault Refusal := .next (answer .nothing (resetCore s))

end Sys2Proof.Machine
end

