-- ==== Sys2Proof/Machine/Create.lean ====
section
/-! DEFINITION. The remap function F and the four CREATE commands (41_lut_create.md). -/

namespace Sys2Proof.Machine

open Sys2Proof

/-- `clamp(v, lo, hi)` (00_scope.md R14). -/
def clamp (v lo hi : Int) : Int := if v < lo then lo else if hi < v then hi else v

/-- The remap function F(min, max, i) (41_lut_create.md R150), exact over the integers; `mn < mx` makes the divisor
positive, and then Lean's `/` on integers is floor division. -/
def remap (mn mx i : Int) : Int :=
  clamp ((510 * (i - mn) + (mx - mn)) / (2 * (mx - mn))) 0 255

/-- F as the 8-bit value it is (41_lut_create.md R152 (a)). -/
def remapByte (mn mx i : Int) : Byte := BitVec.ofInt 8 (remap mn mx i)

/-- The 65536 entries of the Remap Table of a window (10_state.md R37). -/
def remapTable (mn mx : Int) : List Byte :=
  (List.range' 0 65536).map fun (i : Nat) => remapByte mn mx (i : Int)

/-- Step 3 of `CreateCore` (41_lut_create.md R154): the whole table, the latched window and TABLE_VALID. -/
def buildTable (s : State) : State :=
  { s with
    table := remapTable (sext32 s.ops.winMin) (sext32 s.ops.winMax)
    win := { curMin := s.ops.winMin, curMax := s.ops.winMax }
    status := { s.status with tableValid := true } }

/-- `CreateCore(s)` (41_lut_create.md R154). -/
def createCore (st : LutStrat) (s : State) : State :=
  match resolveCreate st s.cap with
  | none => raise .capMismatch s
  | some e =>
    if sext32 s.ops.winMin < sext32 s.ops.winMax then succeed (lutCode e) (buildTable s)
    else raise .invalidWindow s

/-- CREATE.AUTO (41_lut_create.md R157). -/
def execCreateAuto (s : State) : Host.Outcome State Fault Refusal := runGated (createCore .auto) s

/-- CREATE.SCALAR (41_lut_create.md R158). -/
def execCreateScalar (s : State) : Host.Outcome State Fault Refusal := runGated (createCore .scalar) s

/-- CREATE.VEC (41_lut_create.md R159). -/
def execCreateVec (s : State) : Host.Outcome State Fault Refusal := runGated (createCore .vec) s

/-- CREATE.DIRECTF (41_lut_create.md R160). -/
def execCreateDirectf (s : State) : Host.Outcome State Fault Refusal := runGated (createCore .directf) s

end Sys2Proof.Machine
end

