-- ==== Sys2Proof/Machine/Convert.lean ====
section
/-! DEFINITION. The seven CONVERT commands (42_lut_convert.md). -/

namespace Sys2Proof.Machine

open Sys2Proof

/-- TABLE[x] (10_state.md R37). Only in a state no run reaches is the entry unspecified here (R38); then it is a free
value (log 10). -/
def lookupValue (x : Sample) (s : State) : Byte × State :=
  match s.table[x.toNat]? with
  | some v => (v, s)
  | none => drawByte s

/-- F of the latched window (42_lut_convert.md R170, R179). R150 gives F for min < max only, which holds in every state a
run reaches with TABLE_VALID = 1 (10_state.md R38); elsewhere the value is free (log 10). -/
def directValue (x : Sample) (s : State) : Byte × State :=
  if sext32 s.win.curMin < sext32 s.win.curMax then
    (remapByte (sext32 s.win.curMin) (sext32 s.win.curMax) (x.toNat : Int), s)
  else drawByte s

/-- The display value of a sample under the strategy that runs (42_lut_convert.md R170 step 4). AUTO never runs: it has
been replaced. -/
def displayValue (e : LutStrat) (x : Sample) (s : State) : Byte × State :=
  match e with
  | .auto => lookupValue x s
  | .scalar => lookupValue x s
  | .vec => lookupValue x s
  | .gather => lookupValue x s
  | .bperm => lookupValue x s
  | .directf => directValue x s
  | .directi => directValue x s

/-- One turn of the loop of R170 step 4: read SRC at `sa`, write DST at `da`. -/
def convertElement (e : LutStrat) (sa da : Nat) (s : State) : State :=
  let r := displayValue e (memRead s.src sa) s
  { r.2 with dst := memWrite r.2.dst da r.1 }

/-- The loop of R170 step 4 over `n` elements from the addresses `sa` and `da` on. -/
def convertLoop (e : LutStrat) (n sa da : Nat) (s : State) : State :=
  match n with
  | 0 => s
  | n + 1 => convertLoop e n (sa + 1) (da + 1) (convertElement e sa da s)

/-- Step 3 of `ConvertCore` (42_lut_convert.md R170, 20_memory.md R79): a span leaves its space. Nothing wraps. -/
def convertOutOfBounds (s : State) : Bool :=
  decide (0 < zext32 s.ops.length) &&
    (decide ((s.cfg.srcWords : Int) < zext32 s.ops.srcBase + zext32 s.ops.length) ||
      decide ((s.cfg.dstBytes : Int) < zext32 s.ops.dstBase + zext32 s.ops.length))

/-- `ConvertCore(s)` (42_lut_convert.md R170). -/
def convertCore (st : LutStrat) (s : State) : State :=
  match resolveConvert st s.cap with
  | none => raise .capMismatch s
  | some e =>
    if s.status.tableValid then
      if convertOutOfBounds s then raise .outOfBounds s
      else
        succeed (lutCode e) (convertLoop e s.ops.length.toNat s.ops.srcBase.toNat s.ops.dstBase.toNat s)
    else raise .tableNotBuilt s

/-- CONVERT.AUTO (42_lut_convert.md R174). -/
def execConvertAuto (s : State) : Host.Outcome State Fault Refusal := runGated (convertCore .auto) s

/-- CONVERT.SCALAR (42_lut_convert.md R175). -/
def execConvertScalar (s : State) : Host.Outcome State Fault Refusal := runGated (convertCore .scalar) s

/-- CONVERT.VEC (42_lut_convert.md R176). -/
def execConvertVec (s : State) : Host.Outcome State Fault Refusal := runGated (convertCore .vec) s

/-- CONVERT.GATHER (42_lut_convert.md R177). -/
def execConvertGather (s : State) : Host.Outcome State Fault Refusal := runGated (convertCore .gather) s

/-- CONVERT.BPERM (42_lut_convert.md R178). -/
def execConvertBperm (s : State) : Host.Outcome State Fault Refusal := runGated (convertCore .bperm) s

/-- CONVERT.DIRECTF (42_lut_convert.md R179). -/
def execConvertDirectf (s : State) : Host.Outcome State Fault Refusal := runGated (convertCore .directf) s

/-- CONVERT.DIRECTI (42_lut_convert.md R180): F exactly, no fixed-point approximation. -/
def execConvertDirecti (s : State) : Host.Outcome State Fault Refusal := runGated (convertCore .directi) s

end Sys2Proof.Machine
end

