-- ==== Sys2Proof/Machine/Operands.lean ====
section
/-! DEFINITION. The register map (10_state.md R23 to R36): the 28 registers, their offsets, what a read returns and what a
write does. -/

namespace Sys2Proof.Machine

open Sys2Proof

/-- The 28 registers of 10_state.md R23. -/
inductive Register where
  | id
  | cap
  | geom
  | status
  | cmd
  | winMin
  | winMax
  | srcBase
  | dstBase
  | length
  | vhSize
  | offsetX
  | offsetY
  | hext
  | vext
  | curMin
  | curMax
  | vLen
  | hLen
  | resNx
  | resNy
  | resX0
  | resY0
  | tblIdx
  | tblData
  | resIdx
  | vresData
  | hresData
  deriving DecidableEq, Repr

/-- The register at an offset (10_state.md R23); none at a reserved offset (R36) and at no multiple of 4. -/
def registerAt (off : BitVec 12) : Option Register :=
  match off.toNat with
  | 0x00 => some .id
  | 0x04 => some .cap
  | 0x08 => some .geom
  | 0x0C => some .status
  | 0x10 => some .cmd
  | 0x14 => some .winMin
  | 0x18 => some .winMax
  | 0x1C => some .srcBase
  | 0x20 => some .dstBase
  | 0x24 => some .length
  | 0x28 => some .vhSize
  | 0x2C => some .offsetX
  | 0x30 => some .offsetY
  | 0x34 => some .hext
  | 0x38 => some .vext
  | 0x3C => some .curMin
  | 0x40 => some .curMax
  | 0x44 => some .vLen
  | 0x48 => some .hLen
  | 0x4C => some .resNx
  | 0x50 => some .resNy
  | 0x54 => some .resX0
  | 0x58 => some .resY0
  | 0x5C => some .tblIdx
  | 0x60 => some .tblData
  | 0x64 => some .resIdx
  | 0x68 => some .vresData
  | 0x6C => some .hresData
  | _ => none

/-- The offset of a register (10_state.md R23). -/
def offsetOf (r : Register) : BitVec 12 :=
  match r with
  | .id => 0x00
  | .cap => 0x04
  | .geom => 0x08
  | .status => 0x0C
  | .cmd => 0x10
  | .winMin => 0x14
  | .winMax => 0x18
  | .srcBase => 0x1C
  | .dstBase => 0x20
  | .length => 0x24
  | .vhSize => 0x28
  | .offsetX => 0x2C
  | .offsetY => 0x30
  | .hext => 0x34
  | .vext => 0x38
  | .curMin => 0x3C
  | .curMax => 0x40
  | .vLen => 0x44
  | .hLen => 0x48
  | .resNx => 0x4C
  | .resNy => 0x50
  | .resX0 => 0x54
  | .resY0 => 0x58
  | .tblIdx => 0x5C
  | .tblData => 0x60
  | .resIdx => 0x64
  | .vresData => 0x68
  | .hresData => 0x6C

/-- ID (10_state.md R25). -/
def idValue : Word := 0x4C560007

/-- CAP as the host reads it (10_state.md R24): bits 31:3 read 0. -/
def capWord (c : Cap) : Word := 0#29 ++ bit c.byte ++ bit c.adv ++ bit c.mid

/-- GEOM (10_state.md R26): IMG_H in bits 31:16, IMG_W in bits 15:0. -/
def geomWord (c : Config) : Word := BitVec.ofNat 16 c.imgH ++ BitVec.ofNat 16 c.imgW

/-- TBL_DATA's byte (10_state.md R34): TABLE[TBL_IDX] while TABLE_VALID = 1, else unspecified, a fresh draw. -/
def readTableByte (s : State) : Byte × State :=
  if s.status.tableValid then
    match s.table[s.ops.tblIdx.toNat]? with
    | some v => (v, s)
    | none => drawByte s
  else drawByte s

/-- VRES_DATA's and HRES_DATA's sample (10_state.md R35): the entry at RES_IDX when it is below the length register, else
unspecified, a fresh draw. -/
def readScratchSample (entries : List Sample) (len : Word) (s : State) : Sample × State :=
  if s.ops.resIdx.toNat < len.toNat then
    match entries[s.ops.resIdx.toNat]? with
    | some v => (v, s)
    | none => drawSample s
  else drawSample s

/-- What a REGR of a register returns (10_state.md R23 to R35), and the state with the draws it took. -/
def readRegister (r : Register) (s : State) : Word × State :=
  match r with
  | .id => (idValue, s)
  | .cap => (capWord s.cap, s)
  | .geom => (geomWord s.cfg, s)
  | .status => (statusWord s.status, s)
  | .cmd => (0, s)
  | .winMin => (s.ops.winMin, s)
  | .winMax => (s.ops.winMax, s)
  | .srcBase => (s.ops.srcBase, s)
  | .dstBase => (s.ops.dstBase, s)
  | .length => (s.ops.length, s)
  | .vhSize => (s.ops.vhSize, s)
  | .offsetX => (s.ops.offsetX, s)
  | .offsetY => (s.ops.offsetY, s)
  | .hext => (s.ops.hext, s)
  | .vext => (s.ops.vext, s)
  | .curMin => (s.win.curMin, s)
  | .curMax => (s.win.curMax, s)
  | .vLen => (s.res.vLen, s)
  | .hLen => (s.res.hLen, s)
  | .resNx => (s.res.resNx, s)
  | .resNy => (s.res.resNy, s)
  | .resX0 => (s.res.resX0, s)
  | .resY0 => (s.res.resY0, s)
  | .tblIdx => (0#16 ++ s.ops.tblIdx, s)
  | .tblData => (0#24 ++ (readTableByte s).1, (readTableByte s).2)
  | .resIdx => (s.ops.resIdx, s)
  | .vresData => (0#16 ++ (readScratchSample s.vres s.res.vLen s).1, (readScratchSample s.vres s.res.vLen s).2)
  | .hresData => (0#16 ++ (readScratchSample s.hres s.res.hLen s).1, (readScratchSample s.hres s.res.hLen s).2)

/-- What a REGR of an offset returns: a reserved offset reads 0 (10_state.md R36). -/
def readOffset (off : BitVec 12) (s : State) : Word × State :=
  match registerAt off with
  | some r => readRegister r s
  | none => (0, s)

/-- What a REGW writes (10_state.md R23, R34): a read-write register takes the data, TBL_IDX bits 15:0 of it; a write of a
read-only register is ignored. CMD holds nothing: what a REGW to CMD does is `execRegw`'s. -/
def writeOperand (r : Register) (data : Word) (o : OperandRegs) : OperandRegs :=
  match r with
  | .id => o
  | .cap => o
  | .geom => o
  | .status => o
  | .cmd => o
  | .winMin => { o with winMin := data }
  | .winMax => { o with winMax := data }
  | .srcBase => { o with srcBase := data }
  | .dstBase => { o with dstBase := data }
  | .length => { o with length := data }
  | .vhSize => { o with vhSize := data }
  | .offsetX => { o with offsetX := data }
  | .offsetY => { o with offsetY := data }
  | .hext => { o with hext := data }
  | .vext => { o with vext := data }
  | .curMin => o
  | .curMax => o
  | .vLen => o
  | .hLen => o
  | .resNx => o
  | .resNy => o
  | .resX0 => o
  | .resY0 => o
  | .tblIdx => { o with tblIdx := data.extractLsb' 0 16 }
  | .tblData => o
  | .resIdx => { o with resIdx := data }
  | .vresData => o
  | .hresData => o

/-- A REGW to an offset other than CMD: a reserved offset ignores the write (10_state.md R36). -/
def writeOffset (off : BitVec 12) (data : Word) (s : State) : State :=
  match registerAt off with
  | some r => { s with ops := writeOperand r data s.ops }
  | none => s

end Sys2Proof.Machine
end

