-- ==== Sys2Proof/Machine/Transactions.lean ====
section
/-! DEFINITION. The host transactions REGW, REGR, SRCW, SRCR, DSTW, DSTR (40_host_transactions.md); RESET stands in
Control.lean. A transaction that is not well formed is refused (R138, log 8). -/

namespace Sys2Proof.Machine

open Sys2Proof

/-- A REGW of the word `w` to CMD (40_host_transactions.md R131, 60_exceptions.md R250): ignored in the FAULT state, else
the command `Decode(w)`, and ILLEGAL_CMD for a word that is none (R244). `decode` gives commands only, so the last
arms, of host transactions, are never taken (`decode_isCommand`). -/
def runCommandWord (w : Word) (s : State) : Host.Outcome State Fault Refusal :=
  match decode w with
  | .ok .createAuto => execCreateAuto s
  | .ok .createScalar => execCreateScalar s
  | .ok .createVec => execCreateVec s
  | .ok .createDirectf => execCreateDirectf s
  | .ok .convertAuto => execConvertAuto s
  | .ok .convertScalar => execConvertScalar s
  | .ok .convertVec => execConvertVec s
  | .ok .convertGather => execConvertGather s
  | .ok .convertBperm => execConvertBperm s
  | .ok .convertDirectf => execConvertDirectf s
  | .ok .convertDirecti => execConvertDirecti s
  | .ok .calcvAuto => execCalcvAuto s
  | .ok .calcvNaive => execCalcvNaive s
  | .ok .calcvAvx2 => execCalcvAvx2 s
  | .ok .calcvAvx2v => execCalcvAvx2v s
  | .ok .calcvAvx512 => execCalcvAvx512 s
  | .ok .calchAuto => execCalchAuto s
  | .ok .calchNaive => execCalchNaive s
  | .ok .calchAvx2 => execCalchAvx2 s
  | .ok .calchAvx2v => execCalchAvx2v s
  | .ok .calchAvx512 => execCalchAvx512 s
  | .ok .calcvhAuto => execCalcvhAuto s
  | .ok .calcvhNaive => execCalcvhNaive s
  | .ok .calcvhAvx2 => execCalcvhAvx2 s
  | .ok .calcvhAvx2v => execCalcvhAvx2v s
  | .ok .calcvhAvx512 => execCalcvhAvx512 s
  | .ok .clrerr => execClrerr s
  | .ok (.regw _ _) => runGated (raise .illegalCmd) s
  | .ok (.regr _) => runGated (raise .illegalCmd) s
  | .ok (.srcw _ _) => runGated (raise .illegalCmd) s
  | .ok (.srcr _) => runGated (raise .illegalCmd) s
  | .ok (.dstw _ _) => runGated (raise .illegalCmd) s
  | .ok (.dstr _) => runGated (raise .illegalCmd) s
  | .ok .reset => runGated (raise .illegalCmd) s
  | .error _ => runGated (raise .illegalCmd) s

/-- REGW(off, data) (40_host_transactions.md R131). -/
def execRegw (off : BitVec 12) (data : Word) (s : State) : Host.Outcome State Fault Refusal :=
  if offsetOk off then
    if off = cmdOffset then runCommandWord data s else .next (answer .nothing (writeOffset off data s))
  else .refused .misalignedOffset

/-- REGR(off) (40_host_transactions.md R132): returns the register's value, changes nothing. -/
def execRegr (off : BitVec 12) (s : State) : Host.Outcome State Fault Refusal :=
  if offsetOk off then .next (answer (.word (readOffset off s).1) (readOffset off s).2)
  else .refused .misalignedOffset

/-- SRCW(a, v) (40_host_transactions.md R133). -/
def execSrcw (a : Nat) (v : Sample) (s : State) : Host.Outcome State Fault Refusal :=
  if a < s.cfg.srcWords then .next (answer .nothing { s with src := memWrite s.src a v })
  else .refused .srcAddressOutside

/-- SRCR(a) (40_host_transactions.md R134). -/
def execSrcr (a : Nat) (s : State) : Host.Outcome State Fault Refusal :=
  if a < s.cfg.srcWords then .next (answer (.sample (memRead s.src a)) s) else .refused .srcAddressOutside

/-- DSTW(a, v) (40_host_transactions.md R135). -/
def execDstw (a : Nat) (v : Byte) (s : State) : Host.Outcome State Fault Refusal :=
  if a < s.cfg.dstBytes then .next (answer .nothing { s with dst := memWrite s.dst a v })
  else .refused .dstAddressOutside

/-- DSTR(a) (40_host_transactions.md R136). -/
def execDstr (a : Nat) (s : State) : Host.Outcome State Fault Refusal :=
  if a < s.cfg.dstBytes then .next (answer (.byte (memRead s.dst a)) s) else .refused .dstAddressOutside

end Sys2Proof.Machine
end

