-- ==== Sys2Proof/Machine/Dispatch.lean ====
section
/-! DEFINITION. One arm for each instruction: one direct call of its meaning. -/

namespace Sys2Proof.Machine

open Sys2Proof

/-- What an instruction does. -/
def exec (i : Instr) (s : State) : Host.Outcome State Fault Refusal :=
  match i with
  | .createAuto => Sys2Proof.Machine.execCreateAuto s
  | .createScalar => Sys2Proof.Machine.execCreateScalar s
  | .createVec => Sys2Proof.Machine.execCreateVec s
  | .createDirectf => Sys2Proof.Machine.execCreateDirectf s
  | .convertAuto => Sys2Proof.Machine.execConvertAuto s
  | .convertScalar => Sys2Proof.Machine.execConvertScalar s
  | .convertVec => Sys2Proof.Machine.execConvertVec s
  | .convertGather => Sys2Proof.Machine.execConvertGather s
  | .convertBperm => Sys2Proof.Machine.execConvertBperm s
  | .convertDirectf => Sys2Proof.Machine.execConvertDirectf s
  | .convertDirecti => Sys2Proof.Machine.execConvertDirecti s
  | .calcvAuto => Sys2Proof.Machine.execCalcvAuto s
  | .calcvNaive => Sys2Proof.Machine.execCalcvNaive s
  | .calcvAvx2 => Sys2Proof.Machine.execCalcvAvx2 s
  | .calcvAvx2v => Sys2Proof.Machine.execCalcvAvx2v s
  | .calcvAvx512 => Sys2Proof.Machine.execCalcvAvx512 s
  | .calchAuto => Sys2Proof.Machine.execCalchAuto s
  | .calchNaive => Sys2Proof.Machine.execCalchNaive s
  | .calchAvx2 => Sys2Proof.Machine.execCalchAvx2 s
  | .calchAvx2v => Sys2Proof.Machine.execCalchAvx2v s
  | .calchAvx512 => Sys2Proof.Machine.execCalchAvx512 s
  | .calcvhAuto => Sys2Proof.Machine.execCalcvhAuto s
  | .calcvhNaive => Sys2Proof.Machine.execCalcvhNaive s
  | .calcvhAvx2 => Sys2Proof.Machine.execCalcvhAvx2 s
  | .calcvhAvx2v => Sys2Proof.Machine.execCalcvhAvx2v s
  | .calcvhAvx512 => Sys2Proof.Machine.execCalcvhAvx512 s
  | .clrerr => Sys2Proof.Machine.execClrerr s
  | .regw off data => Sys2Proof.Machine.execRegw off data s
  | .regr off => Sys2Proof.Machine.execRegr off s
  | .srcw addr data => Sys2Proof.Machine.execSrcw addr data s
  | .srcr addr => Sys2Proof.Machine.execSrcr addr s
  | .dstw addr data => Sys2Proof.Machine.execDstw addr data s
  | .dstr addr => Sys2Proof.Machine.execDstr addr s
  | .reset => Sys2Proof.Machine.execReset s

end Sys2Proof.Machine
end

