-- ==== Sys2Proof/Machine/Step.lean ====
section
/-! DEFINITION. One step of the machine: the host's next transaction, whole (40_host_transactions.md R130). -/

namespace Sys2Proof.Machine

open Sys2Proof

/-- The machine takes the host's next transaction and executes it; with none pending nothing happens, since the core
never acts on its own (40_host_transactions.md R130, 70_reset_and_hazards.md R289; log 1). -/
def step (s : State) : Host.Outcome State Fault Refusal :=
  match s.pending with
  | [] => .next s
  | t :: rest => exec (decodeTransaction t) { s with pending := rest }

/-- The host's next transaction is a REGW of the word `w` to CMD: that is where the core takes its next command from
(10_state.md R28; log 1). -/
def State.withFetchWord (s : State) (_nbits w : Nat) : State :=
  { s with pending := .regw cmdOffset (BitVec.ofNat 32 w) :: s.pending }

end Sys2Proof.Machine
end

