-- ==== Sys2Proof/Safety.lean ====
section
/-! DEFINITION. What counts as a safe run, the invariants of the machine, and the terms the statements use: which commands
belong to which operation, what each named strategy needs, which strategy code a command leaves in LAST_STRAT, the
order of checks of 60_exceptions.md R250. These are written from the spec's tables, not from the machine's own
functions. -/

namespace Sys2Proof.Machine

open Sys2Proof

/-! ## Conditions of the core -/

/-- The operating condition, FAULT = 0 (10_state.md R40); "a claim about a run takes STATUS.FAULT = 0 throughout as a
premise" (60_exceptions.md R247). -/
abbrev Operating (s : State) : Prop := s.status.fault = false

/-- The FAULT state, FAULT = 1 (10_state.md R40). -/
abbrev InFault (s : State) : Prop := s.status.fault = true

/-- A good final state: not in the FAULT state (60_exceptions.md R247, 70_reset_and_hazards.md R289) and no transaction
left. -/
abbrev FinishedWell (s : State) : Prop := Operating s ∧ s.pending = []

/-! ## Invariants: what holds at reset and after every step -/

/-- 10_state.md R38: whenever TABLE_VALID = 1, the latched window is one and TABLE holds F of it. -/
abbrev TableOk (s : State) : Prop :=
  s.status.tableValid = true →
    sext32 s.win.curMin < sext32 s.win.curMax ∧
    s.table.length = 65536 ∧
    ∀ k : Nat, k < 65536 →
      s.table[k]? = some (BitVec.ofInt 8 (remap (sext32 s.win.curMin) (sext32 s.win.curMax) (k : Int)))

/-- 10_state.md R33, R39: V_LEN and H_LEN are the numbers of valid entries, which fit the scratch memories, and each is 0 or
RES_NX times RES_NY. -/
abbrev ScratchOk (s : State) : Prop :=
  s.vres.length = s.res.vLen.toNat ∧ s.hres.length = s.res.hLen.toNat ∧
  s.res.vLen.toNat ≤ s.cfg.imgW * s.cfg.imgH ∧ s.res.hLen.toNat ≤ s.cfg.imgW * s.cfg.imgH ∧
  (s.res.vLen = 0 ∨ s.res.vLen.toNat = s.res.resNx.toNat * s.res.resNy.toNat) ∧
  (s.res.hLen = 0 ∨ s.res.hLen.toNat = s.res.resNx.toNat * s.res.resNy.toNat)

/-- 60_exceptions.md R246, R247, 10_state.md R27: the core is in the FAULT state exactly when LAST_CODE is fatal, and a
recoverable LAST_CODE leaves ERR_STICKY set. -/
abbrev StatusOk (s : State) : Prop :=
  (s.status.fault = true ↔ s.status.lastCode = .capMismatch ∨ s.status.lastCode = .outOfBounds) ∧
  (s.status.lastCode = .invalidWindow ∨ s.status.lastCode = .illegalCmd ∨ s.status.lastCode = .tableNotBuilt ∨
    s.status.lastCode = .badGeometry → s.status.errSticky = true)

/-- SRC and DST are in canonical form and list no element outside their spaces (20_memory.md R70). -/
abbrev MemoriesOk (s : State) : Prop :=
  Memory.wf s.src ∧ Memory.within s.cfg.srcWords s.src ∧ Memory.wf s.dst ∧ Memory.within s.cfg.dstBytes s.dst

/-- 10_state.md R24: CAP holds the Capability Oracle's three answers. -/
abbrev CapOk (s : State) : Prop := s.cap = { mid := s.cfg.capMid, adv := s.cfg.capAdv, byte := s.cfg.capByte }

/-! ## The commands, by operation (30_encoding.md R102 to R106) -/

/-- CREATE.* -/
abbrev createCommands : List Instr := [.createAuto, .createScalar, .createVec, .createDirectf]

/-- CONVERT.* -/
abbrev convertCommands : List Instr :=
  [.convertAuto, .convertScalar, .convertVec, .convertGather, .convertBperm, .convertDirectf, .convertDirecti]

/-- CALCV.* -/
abbrev calcvCommands : List Instr := [.calcvAuto, .calcvNaive, .calcvAvx2, .calcvAvx2v, .calcvAvx512]

/-- CALCH.* -/
abbrev calchCommands : List Instr := [.calchAuto, .calchNaive, .calchAvx2, .calchAvx2v, .calchAvx512]

/-- CALCVH.* -/
abbrev calcvhCommands : List Instr := [.calcvhAuto, .calcvhNaive, .calcvhAvx2, .calcvhAvx2v, .calcvhAvx512]

/-- The 27 commands. -/
abbrev allCommands : List Instr :=
  createCommands ++ convertCommands ++ calcvCommands ++ calchCommands ++ calcvhCommands ++ [.clrerr]

/-- The capability a command's named strategy needs is there (41_lut_create.md R155, 43_vhadd.md R198); AUTO, SCALAR, NAIVE
and CLRERR need none, and a host transaction has no strategy. -/
def strategySupported (i : Instr) (c : Cap) : Bool :=
  match i with
  | .createVec | .convertVec => c.mid
  | .calcvAvx2 | .calchAvx2 | .calcvhAvx2 | .calcvAvx2v | .calchAvx2v | .calcvhAvx2v => c.mid
  | .convertGather | .calcvAvx512 | .calchAvx512 | .calcvhAvx512 => c.adv
  | .convertBperm => c.byte
  | .createDirectf | .convertDirectf | .convertDirecti => c.mid || c.adv || c.byte
  | .createAuto | .createScalar | .convertAuto | .convertScalar => true
  | .calcvAuto | .calcvNaive | .calchAuto | .calchNaive | .calcvhAuto | .calcvhNaive | .clrerr => true
  | .regw _ _ | .regr _ | .srcw _ _ | .srcr _ | .dstw _ _ | .dstr _ | .reset => true

/-- The strategy code a successful command leaves in LAST_STRAT (30_encoding.md R103, R104); for AUTO the strategy the
dispatcher picks for CAP (the table V30 of 95_test_vectors.md, 41_lut_create.md R156, 42_lut_convert.md R173,
43_vhadd.md R199). CLRERR and the host transactions execute no strategy: 0 stands there and is not used. -/
def executedStrategy (i : Instr) (c : Cap) : BitVec 4 :=
  match i with
  | .createAuto => bif c.byte || c.adv then 5 else bif c.mid then 2 else 1
  | .convertAuto => bif c.byte then 4 else bif c.adv then 3 else bif c.mid then 2 else 1
  | .calcvAuto => bif c.adv then 4 else bif c.mid then 3 else 1
  | .calchAuto | .calcvhAuto => bif c.adv then 4 else bif c.mid then 2 else 1
  | .createScalar | .convertScalar | .calcvNaive | .calchNaive | .calcvhNaive => 1
  | .createVec | .convertVec | .calcvAvx2 | .calchAvx2 | .calcvhAvx2 => 2
  | .convertGather | .calcvAvx2v | .calchAvx2v | .calcvhAvx2v => 3
  | .convertBperm | .calcvAvx512 | .calchAvx512 | .calcvhAvx512 => 4
  | .createDirectf | .convertDirectf => 5
  | .convertDirecti => 6
  | .clrerr => 0
  | .regw _ _ | .regr _ | .srcw _ _ | .srcr _ | .dstw _ _ | .dstr _ | .reset => 0

/-- The number of a completion code (60_exceptions.md R240). -/
def codeNumber (c : CompletionCode) : Nat :=
  match c with
  | .ok => 0
  | .invalidWindow => 1
  | .capMismatch => 2
  | .outOfBounds => 3
  | .illegalCmd => 4
  | .tableNotBuilt => 5
  | .badGeometry => 6

/-! ## The conditions of the operations -/

/-- CREATE's operand condition, min < max, signed (41_lut_create.md R154). -/
abbrev WindowOk (s : State) : Prop := sext32 s.ops.winMin < sext32 s.ops.winMax

/-- CONVERT's spans lie inside SRC and DST, or LENGTH = 0 (42_lut_convert.md R170 step 3). -/
abbrev SpansInside (s : State) : Prop :=
  s.ops.length.toNat = 0 ∨
    (s.ops.srcBase.toNat + s.ops.length.toNat ≤ s.cfg.srcWords ∧
      s.ops.dstBase.toNat + s.ops.length.toNat ≤ s.cfg.dstBytes)

/-- A Calc's extents are positive (43_vhadd.md R200 step 2). -/
abbrev ExtentsOk (s : State) : Prop := s.ops.hext ≠ 0 ∧ s.ops.vext ≠ 0

/-- A Calc's windows stay inside `size` samples and inside SRC, or there is no valid position (43_vhadd.md R197). -/
abbrev WindowsInside (s : State) : Prop :=
  nPositions (geometry s) = 0 ∨
    (maxIdx (geometry s) < zext32 s.ops.vhSize ∧ zext32 s.ops.srcBase + maxIdx (geometry s) < (s.cfg.srcWords : Int))

/-- The nominal position (x, y) is valid: it is on the grid and its whole window is inside the image (43_vhadd.md R192). -/
abbrev ValidPosition (g : Geometry) (x y : Int) : Prop :=
  0 ≤ x ∧ x < g.imgW ∧ 0 ≤ y ∧ y < g.imgH ∧
  0 ≤ x + g.ox ∧ x + g.ox + g.hx ≤ g.imgW ∧ 0 ≤ y + g.oy ∧ y + g.oy + g.vx ≤ g.imgH

/-- j(x, y), the index of a valid position's result (43_vhadd.md R193). -/
abbrev resultIndex (g : Geometry) (x y : Int) : Int := (y - yLo g) * nX g + (x - xLo g)

/-- S(x, y) as a plain number: the element SRC_BASE + y W + x of SRC (43_vhadd.md R190). -/
abbrev imageSample (s : State) (x y : Int) : Nat :=
  (memRead s.src ((s.ops.srcBase.toNat : Int) + y * (s.cfg.imgW : Int) + x).toNat).toNat

/-- After a vertical pass (43_vhadd.md R193, R194, R200): V_LEN = N, and the result of each valid position is the sum mod
65536 of the VEXT samples going down its anchor column; nothing specified lies beyond. -/
abbrev VerticalResult (s t : State) : Prop :=
  (t.res.vLen.toNat : Int) = nPositions (geometry s) ∧ (t.vres.length : Int) = nPositions (geometry s) ∧
  ∀ x y : Int, ValidPosition (geometry s) x y →
    ∃ v : Sample, t.vres[(resultIndex (geometry s) x y).toNat]? = some v ∧
      v.toNat = (∑ k ∈ Finset.range s.ops.vext.toNat,
        imageSample s (x + sext32 s.ops.offsetX) (y + sext32 s.ops.offsetY + (k : Int))) % 65536

/-- After a horizontal pass (43_vhadd.md R193, R195, R200): H_LEN = N, and the result of each valid position is the sum mod
65536 of the HEXT samples going right along its anchor row; nothing specified lies beyond. -/
abbrev HorizontalResult (s t : State) : Prop :=
  (t.res.hLen.toNat : Int) = nPositions (geometry s) ∧ (t.hres.length : Int) = nPositions (geometry s) ∧
  ∀ x y : Int, ValidPosition (geometry s) x y →
    ∃ v : Sample, t.hres[(resultIndex (geometry s) x y).toNat]? = some v ∧
      v.toNat = (∑ k ∈ Finset.range s.ops.hext.toNat,
        imageSample s (x + sext32 s.ops.offsetX + (k : Int)) (y + sext32 s.ops.offsetY)) % 65536

/-- What every successful Calc writes besides its results, and what it leaves alone (43_vhadd.md R200): RES_NX, RES_NY,
RES_X0, RES_Y0, LAST_CODE and LAST_STRAT; all else but VRES, HRES and their lengths is unchanged. -/
abbrev CalcCompletes (i : Instr) (s t : State) : Prop :=
  t = { s with
    vres := t.vres
    hres := t.hres
    res := t.res
    status := { s.status with lastCode := .ok, lastStrat := executedStrategy i s.cap }
    reply := .nothing } ∧
  (t.res.resNx.toNat : Int) = nX (geometry s) ∧ (t.res.resNy.toNat : Int) = nY (geometry s) ∧
  (t.res.resX0.toNat : Int) = xLo (geometry s) ∧ (t.res.resY0.toNat : Int) = yLo (geometry s)

/-- The state after a command that ended with the recoverable error `c` (60_exceptions.md R246): LAST_CODE and ERR_STICKY,
and nothing else of the machine; a REGW returns nothing. -/
abbrev afterRecoverable (c : CompletionCode) (s : State) : State :=
  { s with status := { s.status with lastCode := c, errSticky := true }, reply := .nothing }

/-- The state after a command that ended with the fatal error `c` (60_exceptions.md R247): LAST_CODE and FAULT, and nothing
else of the machine. -/
abbrev afterFatal (c : CompletionCode) (s : State) : State :=
  { s with status := { s.status with lastCode := c, fault := true }, reply := .nothing }

/-- Step 4 and 5 of 60_exceptions.md R250: the operand check of the operation, then its bounds check, else OK. CLRERR has
neither (step 2). -/
def operandCode (i : Instr) (s : State) : CompletionCode :=
  if i ∈ createCommands then if WindowOk s then .ok else .invalidWindow
  else if i ∈ convertCommands then
    if s.status.tableValid = false then .tableNotBuilt else if SpansInside s then .ok else .outOfBounds
  else if i ∈ calcvCommands ++ calchCommands ++ calcvhCommands then
    if ¬ ExtentsOk s then .badGeometry else if WindowsInside s then .ok else .outOfBounds
  else .ok

end Sys2Proof.Machine
end

