-- ==== Sys2Proof/Certificates/Slice0/Obligations.lean ====
section
/-! DEFINITION. The statements about the machine. Each docstring names the rule of spec/ the statement formalises and,
where a clause rests on a choice of the model's own, the entry of the assumption log. -/

open Sys2Proof Sys2Proof.Machine

/-! ## Encoding (30_encoding.md) -/

/-- 30_encoding.md R106, R108: `Decode(w)` answers a command exactly for the 27 words of the table of R106, and then the
command of that row. -/
def Obligations.LegalWordsTable : Prop :=
  ∀ (w : Word) (i : Instr), decode w = .ok i ↔
    (w, i) ∈ ([(0x00000001, .createAuto), (0x00000011, .createScalar), (0x00000021, .createVec),
      (0x00000051, .createDirectf), (0x00000002, .convertAuto), (0x00000012, .convertScalar),
      (0x00000022, .convertVec), (0x00000032, .convertGather), (0x00000042, .convertBperm),
      (0x00000052, .convertDirectf), (0x00000062, .convertDirecti), (0x00000003, .calcvAuto),
      (0x00000013, .calcvNaive), (0x00000023, .calcvAvx2), (0x00000033, .calcvAvx2v), (0x00000043, .calcvAvx512),
      (0x00000004, .calchAuto), (0x00000014, .calchNaive), (0x00000024, .calchAvx2), (0x00000034, .calchAvx2v),
      (0x00000044, .calchAvx512), (0x00000005, .calcvhAuto), (0x00000015, .calcvhNaive), (0x00000025, .calcvhAvx2),
      (0x00000035, .calcvhAvx2v), (0x00000045, .calcvhAvx512), (0x00000006, .clrerr)] : List (Word × Instr))

/-- Decode and encode agree in both directions, over all words and all instructions: no bit of a word is dropped, no two
commands share a word, and a host transaction is no word (30_encoding.md §3). -/
def Obligations.DecodeOkIffEncode : Prop :=
  ∀ (w : Word) (i : Instr), decode w = .ok i ↔ encode i = some w

/-- 30_encoding.md R107: which words are illegal, field by field (OP is `w mod 16`, STRAT is `w / 16 mod 16`, a word of 256 or
more has one of bits 31:8 set), and that a REGW of one to CMD in the operating condition ends with ILLEGAL_CMD and
changes nothing but STATUS. -/
def Obligations.IllegalWordsExactly : Prop :=
  ∀ w : Word,
    ((∃ e, decode w = .error e) ↔
      (256 ≤ w.toNat ∨ w.toNat % 16 = 0 ∨ 7 ≤ w.toNat % 16 ∨
        (w.toNat % 16 = 1 ∧ (w.toNat / 16 % 16 = 3 ∨ w.toNat / 16 % 16 = 4 ∨ 6 ≤ w.toNat / 16 % 16)) ∨
        (w.toNat % 16 = 2 ∧ 7 ≤ w.toNat / 16 % 16) ∨
        (3 ≤ w.toNat % 16 ∧ w.toNat % 16 ≤ 5 ∧ 5 ≤ w.toNat / 16 % 16) ∨
        (w.toNat % 16 = 6 ∧ w.toNat / 16 % 16 ≠ 0))) ∧
    ∀ s : State, (∃ e, decode w = .error e) → Operating s →
      exec (.regw 0x010 w) s = .next (afterRecoverable .illegalCmd s)

/-- A few words written out from 30_encoding.md §3 decode to the commands they stand for, and one word of each illegal kind
decodes to none. -/
def Obligations.SomeWordsDecode : Prop :=
  decode 0x00000051 = .ok .createDirectf ∧ decode 0x00000062 = .ok .convertDirecti ∧
  decode 0x00000033 = .ok .calcvAvx2v ∧ decode 0x00000044 = .ok .calchAvx512 ∧
  decode 0x00000015 = .ok .calcvhNaive ∧ decode 0x00000006 = .ok .clrerr ∧
  decode 0x00000031 = .error .convertOnlyStrat ∧ decode 0x00000053 = .error .reservedStrat ∧
  decode 0x00000000 = .error .reservedOp ∧ decode 0x00000111 = .error .zeroFieldSet ∧
  decode 0x00000016 = .error .clrerrStrat

/-! ## Steps (40_host_transactions.md §1) -/

/-- A step takes the host's next transaction and executes it; a REGW of a word that decodes to a command is that command;
with no transaction left nothing happens (40_host_transactions.md §1; that the host's transactions stand in
`State.pending`, and that the machine idles without one, is the model's choice, log 1). -/
def Obligations.StepRunsTransaction : Prop :=
  (∀ (s : State) (t : Transaction) (rest : List Transaction), s.pending = t :: rest →
    step s = exec (decodeTransaction t) { s with pending := rest }) ∧
  (∀ (s : State) (w : Word) (rest : List Transaction) (i : Instr),
    s.pending = .regw 0x010 w :: rest → decode w = .ok i → step s = exec i { s with pending := rest }) ∧
  (∀ s : State, s.pending = [] → step s = .next s)

/-- 40_host_transactions.md R138: an instruction has a meaning exactly when it is well formed; what is not well formed is
refused. -/
def Obligations.WellFormedExactly : Prop :=
  ∀ (i : Instr) (s : State),
    ((∃ t, exec i s = .next t) ↔
      match i with
      | .regw off _ | .regr off => off.toNat % 4 = 0
      | .srcw a _ | .srcr a => a < s.cfg.srcWords
      | .dstw a _ | .dstr a => a < s.cfg.dstBytes
      | _ => True) ∧
    ((∃ r, exec i s = .refused r) ↔ ¬ ∃ t, exec i s = .next t)

/-! ## Register access (40_host_transactions.md R131, R132, 10_state.md R23 to R36) -/

/-- 40_host_transactions.md R131, whole: a REGW to CMD is ignored in the FAULT state and else runs the command `Decode(data)`;
each read-write register takes the data, TBL_IDX its bits 15:0; every other write changes nothing. -/
def Obligations.RegwRule : Prop :=
  ∀ (s : State) (data : Word),
    (InFault s → exec (.regw 0x010 data) s = .next { s with reply := .nothing }) ∧
    (Operating s → ∀ i, decode data = .ok i → exec (.regw 0x010 data) s = exec i s) ∧
    (Operating s → ∀ e, decode data = .error e →
      exec (.regw 0x010 data) s = .next (afterRecoverable .illegalCmd s)) ∧
    exec (.regw 0x014 data) s = .next { s with ops := { s.ops with winMin := data }, reply := .nothing } ∧
    exec (.regw 0x018 data) s = .next { s with ops := { s.ops with winMax := data }, reply := .nothing } ∧
    exec (.regw 0x01C data) s = .next { s with ops := { s.ops with srcBase := data }, reply := .nothing } ∧
    exec (.regw 0x020 data) s = .next { s with ops := { s.ops with dstBase := data }, reply := .nothing } ∧
    exec (.regw 0x024 data) s = .next { s with ops := { s.ops with length := data }, reply := .nothing } ∧
    exec (.regw 0x028 data) s = .next { s with ops := { s.ops with vhSize := data }, reply := .nothing } ∧
    exec (.regw 0x02C data) s = .next { s with ops := { s.ops with offsetX := data }, reply := .nothing } ∧
    exec (.regw 0x030 data) s = .next { s with ops := { s.ops with offsetY := data }, reply := .nothing } ∧
    exec (.regw 0x034 data) s = .next { s with ops := { s.ops with hext := data }, reply := .nothing } ∧
    exec (.regw 0x038 data) s = .next { s with ops := { s.ops with vext := data }, reply := .nothing } ∧
    exec (.regw 0x05C data) s =
      .next { s with ops := { s.ops with tblIdx := BitVec.ofNat 16 (data.toNat % 65536) }, reply := .nothing } ∧
    exec (.regw 0x064 data) s = .next { s with ops := { s.ops with resIdx := data }, reply := .nothing } ∧
    ∀ off : BitVec 12, off.toNat % 4 = 0 →
      off ∉ ([0x010, 0x014, 0x018, 0x01C, 0x020, 0x024, 0x028, 0x02C, 0x030, 0x034, 0x038, 0x05C, 0x064] :
        List (BitVec 12)) →
      exec (.regw off data) s = .next { s with reply := .nothing }

/-- What a REGR of each register returns, field by field (10_state.md R24 to R35, 40_host_transactions.md R132), that a
reserved offset returns 0, and that no core state, SRC or DST changes. Where the spec leaves the value unspecified some
value is returned; that the read then advances the counter `draws` by one is the model's own choice and no rule of the
spec (log 4), and so is that the value returned stands in `reply` (log 3). -/
def Obligations.RegrRule : Prop :=
  ∀ s : State,
    exec (.regr 0x000) s = .next { s with reply := .word 0x4C560007 } ∧
    exec (.regr 0x004) s =
      .next { s with reply := .word (BitVec.ofNat 32 (s.cap.mid.toNat + 2 * s.cap.adv.toNat + 4 * s.cap.byte.toNat)) } ∧
    (s.cfg.WF → exec (.regr 0x008) s =
      .next { s with reply := .word (BitVec.ofNat 32 (s.cfg.imgW + 65536 * s.cfg.imgH)) }) ∧
    exec (.regr 0x00C) s =
      .next { s with
        reply := .word (BitVec.ofNat 32 (s.status.tableValid.toNat + 2 * s.status.fault.toNat +
          4 * s.status.errSticky.toNat + 16 * codeNumber s.status.lastCode + 256 * s.status.lastStrat.toNat)) } ∧
    exec (.regr 0x010) s = .next { s with reply := .word 0 } ∧
    exec (.regr 0x014) s = .next { s with reply := .word s.ops.winMin } ∧
    exec (.regr 0x018) s = .next { s with reply := .word s.ops.winMax } ∧
    exec (.regr 0x01C) s = .next { s with reply := .word s.ops.srcBase } ∧
    exec (.regr 0x020) s = .next { s with reply := .word s.ops.dstBase } ∧
    exec (.regr 0x024) s = .next { s with reply := .word s.ops.length } ∧
    exec (.regr 0x028) s = .next { s with reply := .word s.ops.vhSize } ∧
    exec (.regr 0x02C) s = .next { s with reply := .word s.ops.offsetX } ∧
    exec (.regr 0x030) s = .next { s with reply := .word s.ops.offsetY } ∧
    exec (.regr 0x034) s = .next { s with reply := .word s.ops.hext } ∧
    exec (.regr 0x038) s = .next { s with reply := .word s.ops.vext } ∧
    exec (.regr 0x03C) s = .next { s with reply := .word s.win.curMin } ∧
    exec (.regr 0x040) s = .next { s with reply := .word s.win.curMax } ∧
    exec (.regr 0x044) s = .next { s with reply := .word s.res.vLen } ∧
    exec (.regr 0x048) s = .next { s with reply := .word s.res.hLen } ∧
    exec (.regr 0x04C) s = .next { s with reply := .word s.res.resNx } ∧
    exec (.regr 0x050) s = .next { s with reply := .word s.res.resNy } ∧
    exec (.regr 0x054) s = .next { s with reply := .word s.res.resX0 } ∧
    exec (.regr 0x058) s = .next { s with reply := .word s.res.resY0 } ∧
    exec (.regr 0x05C) s = .next { s with reply := .word (BitVec.ofNat 32 s.ops.tblIdx.toNat) } ∧
    (∀ v : Byte, s.status.tableValid = true → s.table[s.ops.tblIdx.toNat]? = some v →
      exec (.regr 0x060) s = .next { s with reply := .word (BitVec.ofNat 32 v.toNat) }) ∧
    (s.status.tableValid = false → ∃ v : Byte,
      exec (.regr 0x060) s = .next { s with reply := .word (BitVec.ofNat 32 v.toNat), draws := s.draws + 1 }) ∧
    exec (.regr 0x064) s = .next { s with reply := .word s.ops.resIdx } ∧
    (∀ v : Sample, s.ops.resIdx.toNat < s.res.vLen.toNat → s.vres[s.ops.resIdx.toNat]? = some v →
      exec (.regr 0x068) s = .next { s with reply := .word (BitVec.ofNat 32 v.toNat) }) ∧
    (¬ s.ops.resIdx.toNat < s.res.vLen.toNat → ∃ v : Sample,
      exec (.regr 0x068) s = .next { s with reply := .word (BitVec.ofNat 32 v.toNat), draws := s.draws + 1 }) ∧
    (∀ v : Sample, s.ops.resIdx.toNat < s.res.hLen.toNat → s.hres[s.ops.resIdx.toNat]? = some v →
      exec (.regr 0x06C) s = .next { s with reply := .word (BitVec.ofNat 32 v.toNat) }) ∧
    (¬ s.ops.resIdx.toNat < s.res.hLen.toNat → ∃ v : Sample,
      exec (.regr 0x06C) s = .next { s with reply := .word (BitVec.ofNat 32 v.toNat), draws := s.draws + 1 }) ∧
    ∀ off : BitVec 12, off.toNat % 4 = 0 → 0x70 ≤ off.toNat →
      exec (.regr off) s = .next { s with reply := .word 0 }

/-- 10_state.md R34: a write of TBL_IDX keeps bits 15:0; after it TBL_IDX reads those bits with bits 31:16 at 0, and while
TABLE_VALID = 1 TBL_DATA reads that entry of TABLE with bits 31:8 at 0, as often as it is read; while TABLE_VALID = 0
only bits 31:8 of TBL_DATA are known. -/
def Obligations.TableIndexWindow : Prop :=
  ∀ (s : State) (data : Word), ∃ t, exec (.regw 0x05C data) s = .next t ∧
    exec (.regr 0x05C) t = .next { t with reply := .word (BitVec.ofNat 32 (data.toNat % 65536)) } ∧
    (∀ v : Byte, s.status.tableValid = true → s.table[data.toNat % 65536]? = some v →
      ∃ u, exec (.regr 0x060) t = .next u ∧ u = { t with reply := .word (BitVec.ofNat 32 v.toNat) } ∧
        exec (.regr 0x060) u = .next u ∧ u.ops.tblIdx.toNat = data.toNat % 65536) ∧
    (s.status.tableValid = false → ∃ (w : Word) (u : State), exec (.regr 0x060) t = .next u ∧
      u = { t with reply := .word w, draws := u.draws } ∧ w.toNat < 256)

/-- 10_state.md R35: a write of RES_IDX keeps all 32 bits; VRES_DATA and HRES_DATA then read the entry at it, with bits 31:16
at 0, when it is below V_LEN or H_LEN, and otherwise only bits 31:16 are known; no read advances RES_IDX. -/
def Obligations.ScratchIndexWindow : Prop :=
  ∀ (s : State) (data : Word), ∃ t, exec (.regw 0x064 data) s = .next t ∧
    exec (.regr 0x064) t = .next { t with reply := .word data } ∧
    (∀ v : Sample, data.toNat < s.res.vLen.toNat → s.vres[data.toNat]? = some v →
      ∃ u, exec (.regr 0x068) t = .next u ∧ u = { t with reply := .word (BitVec.ofNat 32 v.toNat) } ∧
        exec (.regr 0x068) u = .next u) ∧
    (¬ data.toNat < s.res.vLen.toNat → ∃ (w : Word) (u : State), exec (.regr 0x068) t = .next u ∧
      u = { t with reply := .word w, draws := u.draws } ∧ w.toNat < 65536) ∧
    (∀ v : Sample, data.toNat < s.res.hLen.toNat → s.hres[data.toNat]? = some v →
      ∃ u, exec (.regr 0x06C) t = .next u ∧ u = { t with reply := .word (BitVec.ofNat 32 v.toNat) } ∧
        exec (.regr 0x06C) u = .next u) ∧
    (¬ data.toNat < s.res.hLen.toNat → ∃ (w : Word) (u : State), exec (.regr 0x06C) t = .next u ∧
      u = { t with reply := .word w, draws := u.draws } ∧ w.toNat < 65536)

/-- 10_state.md R36: a reserved offset reads 0 and ignores writes, a read-only register ignores writes (and neither is an
error), and the reserved bits of every register read 0: CAP 31:3, STATUS 3 and 31:12, TBL_IDX 31:16, TBL_DATA 31:8,
VRES_DATA and HRES_DATA 31:16. -/
def Obligations.ReservedReadZeroIgnoreWrites : Prop :=
  ∀ s : State,
    (∀ off : BitVec 12, off.toNat % 4 = 0 → 0x70 ≤ off.toNat → exec (.regr off) s = .next { s with reply := .word 0 }) ∧
    (∀ (off : BitVec 12) (data : Word), off.toNat % 4 = 0 → 0x70 ≤ off.toNat →
      exec (.regw off data) s = .next { s with reply := .nothing }) ∧
    (∀ (off : BitVec 12) (data : Word),
      off ∈ ([0x000, 0x004, 0x008, 0x00C, 0x03C, 0x040, 0x044, 0x048, 0x04C, 0x050, 0x054, 0x058, 0x060, 0x068,
        0x06C] : List (BitVec 12)) →
      exec (.regw off data) s = .next { s with reply := .nothing }) ∧
    (∀ (off : BitVec 12) (t : State) (w : Word), exec (.regr off) s = .next t → t.reply = .word w →
      (off = 0x004 → w.toNat < 8) ∧
      (off = 0x00C → w.toNat < 4096 ∧ w.toNat / 8 % 2 = 0) ∧
      (off = 0x05C → w.toNat < 65536) ∧
      (off = 0x060 → w.toNat < 256) ∧
      (off = 0x068 ∨ off = 0x06C → w.toNat < 65536))

/-- 10_state.md R25 and R26: ID reads 0x4C560007 and GEOM reads IMG_W in bits 15:0 and IMG_H in bits 31:16, after any
transaction, a write of the register included, as before. -/
def Obligations.IdAndGeomNeverChange : Prop :=
  ∀ (i : Instr) (s t : State), s.cfg.WF → exec i s = .next t →
    exec (.regr 0x000) t = .next { t with reply := .word 0x4C560007 } ∧
    ∃ w : Word, exec (.regr 0x008) t = .next { t with reply := .word w } ∧
      exec (.regr 0x008) s = .next { s with reply := .word w } ∧
      w.toNat % 65536 = s.cfg.imgW ∧ w.toNat / 65536 = s.cfg.imgH

/-- 10_state.md R24: CAP is loaded from the parameters at reset and never changes afterwards; it reads CAP_MID, CAP_ADV,
CAP_BYTE in bits 0, 1, 2, and every step keeps it so. -/
def Obligations.CapLatchedAtResetOnly : Prop :=
  (∀ c : Config, CapOk (State.resetWith c)) ∧
  (∀ s : State, ∃ t, exec .reset s = .next t ∧ CapOk t) ∧
  (∀ s t : State, CapOk s → step s = .next t → CapOk t ∧ t.cap = s.cap) ∧
  (∀ s : State, CapOk s → exec (.regr 0x004) s =
    .next { s with
      reply := .word (BitVec.ofNat 32 (s.cfg.capMid.toNat + 2 * s.cfg.capAdv.toNat + 4 * s.cfg.capByte.toNat)) })

/-! ## SRC and DST (40_host_transactions.md R133 to R136) -/

/-- 40_host_transactions.md R133, R134: SRCW writes one element of SRC and changes nothing else; SRCR returns the element and
changes nothing. (The premise is the canonical form of SRC, which every step keeps: `MemoryFormKept`.) -/
def Obligations.SourceMemoryAccess : Prop :=
  ∀ (s : State) (a : Nat) (v : Sample), Memory.wf s.src → a < s.cfg.srcWords →
    (∃ t, exec (.srcw a v) s = .next t ∧ t = { s with src := t.src, reply := .nothing } ∧
      ∀ b : Nat, memRead t.src b = if b = a then v else memRead s.src b) ∧
    exec (.srcr a) s = .next { s with reply := .sample (memRead s.src a) }

/-- 40_host_transactions.md R135, R136: DSTW writes one element of DST and changes nothing else; DSTR returns the element and
changes nothing. -/
def Obligations.DestinationMemoryAccess : Prop :=
  ∀ (s : State) (a : Nat) (v : Byte), Memory.wf s.dst → a < s.cfg.dstBytes →
    (∃ t, exec (.dstw a v) s = .next t ∧ t = { s with dst := t.dst, reply := .nothing } ∧
      ∀ b : Nat, memRead t.dst b = if b = a then v else memRead s.dst b) ∧
    exec (.dstr a) s = .next { s with reply := .byte (memRead s.dst a) }

/-! ## Reset (40_host_transactions.md R137, 10_state.md R43) -/

/-- 40_host_transactions.md R137: RESET gives every piece of core state its reset value (10_state.md R43; TABLE, VRES and HRES
have none, so nothing is said of them here), keeps SRC and DST, and is the only way out of the FAULT state. The
parameters, and the model's own `pending` and `draws` (log 1, 4), are kept. -/
def Obligations.ResetRule : Prop :=
  (∀ s : State, ∃ t, exec .reset s = .next t ∧ t =
    { s with
      cap := { mid := s.cfg.capMid, adv := s.cfg.capAdv, byte := s.cfg.capByte }
      status := { tableValid := false, fault := false, errSticky := false, lastCode := .ok, lastStrat := 0 }
      ops := { winMin := 0, winMax := 0, srcBase := 0, dstBase := 0, length := 0, vhSize := 0, offsetX := 0,
               offsetY := 0, hext := 0, vext := 0, tblIdx := 0, resIdx := 0 }
      win := { curMin := 0, curMax := 0 }
      res := { vLen := 0, hLen := 0, resNx := 0, resNy := 0, resX0 := 0, resY0 := 0 }
      table := t.table
      vres := t.vres
      hres := t.hres
      reply := .nothing }) ∧
  ∀ (i : Instr) (s t : State), InFault s → exec i s = .next t → i ≠ .reset → InFault t

/-! ## The LUT Engine (41_lut_create.md, 42_lut_convert.md) -/

/-- 41_lut_create.md R155, for the commands that name a LUT strategy: each ends with CAP_MISMATCH exactly when the
capability it needs is absent; SCALAR needs none. -/
def Obligations.LutCapabilityGate : Prop :=
  ∀ s : State, Operating s →
    (exec .createScalar s ≠ .next (afterFatal .capMismatch s)) ∧
    (exec .convertScalar s ≠ .next (afterFatal .capMismatch s)) ∧
    (exec .createVec s = .next (afterFatal .capMismatch s) ↔ s.cap.mid = false) ∧
    (exec .convertVec s = .next (afterFatal .capMismatch s) ↔ s.cap.mid = false) ∧
    (exec .convertGather s = .next (afterFatal .capMismatch s) ↔ s.cap.adv = false) ∧
    (exec .convertBperm s = .next (afterFatal .capMismatch s) ↔ s.cap.byte = false) ∧
    (exec .createDirectf s = .next (afterFatal .capMismatch s) ↔
      s.cap.mid = false ∧ s.cap.adv = false ∧ s.cap.byte = false) ∧
    (exec .convertDirectf s = .next (afterFatal .capMismatch s) ↔
      s.cap.mid = false ∧ s.cap.adv = false ∧ s.cap.byte = false) ∧
    (exec .convertDirecti s = .next (afterFatal .capMismatch s) ↔
      s.cap.mid = false ∧ s.cap.adv = false ∧ s.cap.byte = false)

/-- 41_lut_create.md R156, 42_lut_convert.md R173, 43_vhadd.md R199: an AUTO command never ends with CAP_MISMATCH, and when it
completes, LAST_STRAT is the strategy the dispatcher picks for CAP, which AUTO (0) is not. -/
def Obligations.AutoDispatch : Prop :=
  ∀ (i : Instr) (s t : State),
    i ∈ ([.createAuto, .convertAuto, .calcvAuto, .calchAuto, .calcvhAuto] : List Instr) → Operating s →
    exec i s = .next t →
    t.status.lastCode ≠ .capMismatch ∧
    (t.status.lastCode = .ok →
      (i = .createAuto → t.status.lastStrat =
        if s.cap.byte = true ∨ s.cap.adv = true then 5 else if s.cap.mid = true then 2 else 1) ∧
      (i = .convertAuto → t.status.lastStrat =
        if s.cap.byte = true then 4 else if s.cap.adv = true then 3 else if s.cap.mid = true then 2 else 1) ∧
      (i = .calcvAuto → t.status.lastStrat =
        if s.cap.adv = true then 4 else if s.cap.mid = true then 3 else 1) ∧
      (i = .calchAuto ∨ i = .calcvhAuto → t.status.lastStrat =
        if s.cap.adv = true then 4 else if s.cap.mid = true then 2 else 1))

/-- F rounds 255 n / d half up and saturates outside the window (41_lut_create.md §1; the meaning of round-half-up is marked
there as general knowledge, 93_implementation_defined.md G1): below min it is 0, from max on 255, and between it is
the integer nearest to 255 n / d, the larger one at a tie. -/
def Obligations.RemapRoundsHalfUp : Prop :=
  ∀ mn mx i : Int, mn < mx →
    (i ≤ mn → remap mn mx i = 0) ∧
    (mx ≤ i → remap mn mx i = 255) ∧
    (mn < i → i < mx →
      (2 * remap mn mx i - 1) * (mx - mn) ≤ 510 * (i - mn) ∧
      510 * (i - mn) < (2 * remap mn mx i + 1) * (mx - mn))

/-- F stays in 0 to 255 and is monotonic in the sample (41_lut_create.md §1, R152 (a) and (b), marked there as derived). -/
def Obligations.RemapMonotone : Prop :=
  ∀ mn mx i j : Int, mn < mx → i ≤ j →
    0 ≤ remap mn mx i ∧ remap mn mx i ≤ remap mn mx j ∧ remap mn mx j ≤ 255

/-- 41_lut_create.md R154, `CreateCore`, for the four CREATE commands in the operating condition: an unsupported named strategy
is CAP_MISMATCH, an invalid window INVALID_WINDOW, each with nothing changed but STATUS; otherwise the command completes
with all 65536 entries F(min, max, i), the latched window, TABLE_VALID, OK and the executed strategy, and nothing else
changed. -/
def Obligations.CreateRule : Prop :=
  ∀ i ∈ ([.createAuto, .createScalar, .createVec, .createDirectf] : List Instr), ∀ s : State, Operating s →
    (strategySupported i s.cap = false → exec i s = .next (afterFatal .capMismatch s)) ∧
    (strategySupported i s.cap = true → ¬ WindowOk s → exec i s = .next (afterRecoverable .invalidWindow s)) ∧
    (strategySupported i s.cap = true → WindowOk s → ∃ t, exec i s = .next t ∧
      t = { s with
        table := t.table
        win := { curMin := s.ops.winMin, curMax := s.ops.winMax }
        status := { s.status with tableValid := true, lastCode := .ok, lastStrat := executedStrategy i s.cap }
        reply := .nothing } ∧
      t.table.length = 65536 ∧
      ∀ k : Nat, k < 65536 →
        t.table[k]? = some (BitVec.ofInt 8 (remap (sext32 s.ops.winMin) (sext32 s.ops.winMax) (k : Int))))

/-- 42_lut_convert.md R170, `ConvertCore`, for the seven CONVERT commands in the operating condition: CAP_MISMATCH, then
TABLE_NOT_BUILT, then OUT_OF_BOUNDS, each with nothing changed but STATUS; otherwise the command completes, element
DST_BASE + k becomes TABLE[x] (table strategies) or F of the latched window at x (direct strategies) for the sample x at
SRC_BASE + k, for every k below LENGTH, and nothing else changes. (The premises of the last clause are the canonical
form of DST and two parts of the table invariant, which every step keeps: `MemoryFormKept`, `TableInvariantKept`.) -/
def Obligations.ConvertRule : Prop :=
  ∀ i ∈ ([.convertAuto, .convertScalar, .convertVec, .convertGather, .convertBperm, .convertDirectf,
      .convertDirecti] : List Instr), ∀ s : State, Operating s →
    (strategySupported i s.cap = false → exec i s = .next (afterFatal .capMismatch s)) ∧
    (strategySupported i s.cap = true → s.status.tableValid = false →
      exec i s = .next (afterRecoverable .tableNotBuilt s)) ∧
    (strategySupported i s.cap = true → s.status.tableValid = true → ¬ SpansInside s →
      exec i s = .next (afterFatal .outOfBounds s)) ∧
    (strategySupported i s.cap = true → s.status.tableValid = true → SpansInside s →
      s.table.length = 65536 → sext32 s.win.curMin < sext32 s.win.curMax → Memory.wf s.dst →
      ∃ t, exec i s = .next t ∧
        t = { s with
          dst := t.dst
          status := { s.status with lastCode := .ok, lastStrat := executedStrategy i s.cap }
          reply := .nothing } ∧
        (∀ k : Nat, k < s.ops.length.toNat →
          if i = .convertDirectf ∨ i = .convertDirecti then
            memRead t.dst (s.ops.dstBase.toNat + k) =
              BitVec.ofInt 8 (remap (sext32 s.win.curMin) (sext32 s.win.curMax)
                ((memRead s.src (s.ops.srcBase.toNat + k)).toNat : Int))
          else
            s.table[(memRead s.src (s.ops.srcBase.toNat + k)).toNat]? =
              some (memRead t.dst (s.ops.dstBase.toNat + k))) ∧
        ∀ a : Nat, a < s.ops.dstBase.toNat ∨ s.ops.dstBase.toNat + s.ops.length.toNat ≤ a →
          memRead t.dst a = memRead s.dst a)

/-- With the table invariant every CONVERT, by lookup or by direct recomputation, writes F of the latched window at each
sample (42_lut_convert.md §1, R171, marked there as derived). -/
def Obligations.LookupAndDirectAgree : Prop :=
  ∀ i ∈ convertCommands, ∀ s : State, Operating s → strategySupported i s.cap = true →
    s.status.tableValid = true → TableOk s → Memory.wf s.dst → SpansInside s →
    ∃ t, exec i s = .next t ∧ t.status.lastCode = .ok ∧
      ∀ k : Nat, k < s.ops.length.toNat →
        ((memRead t.dst (s.ops.dstBase.toNat + k)).toNat : Int) =
          remap (sext32 s.win.curMin) (sext32 s.win.curMax) ((memRead s.src (s.ops.srcBase.toNat + k)).toNat : Int)

/-- The end-to-end law (42_lut_convert.md §3, R183, marked there as derived): a CREATE.AUTO of the window (0, 255) followed by a
CONVERT.AUTO maps every sample x to min(255, x). -/
def Obligations.CreateThenConvertClips : Prop :=
  ∀ s : State, Operating s → s.ops.winMin = 0 → s.ops.winMax = 255 → Memory.wf s.dst → SpansInside s →
    ∃ t u, exec .createAuto s = .next t ∧ exec .convertAuto t = .next u ∧ u.status.lastCode = .ok ∧
      ∀ k : Nat, k < s.ops.length.toNat →
        (memRead u.dst (s.ops.dstBase.toNat + k)).toNat =
          min 255 (memRead s.src (s.ops.srcBase.toNat + k)).toNat

/-! ## The VHAdd Engine (43_vhadd.md) -/

/-- 43_vhadd.md R192: the valid positions are exactly the rectangle of x_lo to x_hi and y_lo to y_hi, and NX, NY and N count
its columns, rows and positions. -/
def Obligations.ValidPositionsRectangle : Prop :=
  ∀ (g : Geometry) (x y : Int),
    xLo g = max 0 (-g.ox) ∧ xHi g = min (g.imgW - 1) (g.imgW - g.hx - g.ox) ∧
    yLo g = max 0 (-g.oy) ∧ yHi g = min (g.imgH - 1) (g.imgH - g.vx - g.oy) ∧
    nX g = max 0 (xHi g - xLo g + 1) ∧ nY g = max 0 (yHi g - yLo g + 1) ∧ nPositions g = nX g * nY g ∧
    (ValidPosition g x y ↔ xLo g ≤ x ∧ x ≤ xHi g ∧ yLo g ≤ y ∧ y ≤ yHi g)

/-- The output order is dense and can be turned back (43_vhadd.md §1, R193): the index of a valid position is below N, and the
column and the row are read off it; every index below N is that of a valid position. -/
def Obligations.ResultIndexBijection : Prop :=
  ∀ g : Geometry,
    (∀ x y : Int, ValidPosition g x y →
      0 ≤ resultIndex g x y ∧ resultIndex g x y < nPositions g ∧
      x = xLo g + resultIndex g x y % nX g ∧ y = yLo g + resultIndex g x y / nX g) ∧
    (∀ j : Int, 0 ≤ j → j < nPositions g →
      ∃ x y : Int, ValidPosition g x y ∧ resultIndex g x y = j)

/-- Every sample of every window of a valid position has a linear index between 0 and max_idx, and max_idx is inside the image
(43_vhadd.md §3, R197), so one check before the first access bounds them all. -/
def Obligations.WindowsCoveredByMaxIdx : Prop :=
  ∀ (g : Geometry) (x y k l : Int), 0 < g.hx → 0 < g.vx → ValidPosition g x y →
    0 ≤ k → k < g.hx → 0 ≤ l → l < g.vx →
    0 ≤ (y + g.oy + l) * g.imgW + (x + g.ox + k) ∧
    (y + g.oy + l) * g.imgW + (x + g.ox + k) ≤ maxIdx g ∧ maxIdx g ≤ g.imgW * g.imgH - 1

/-- 43_vhadd.md R200, `CalcCore`, for the fifteen Calc commands in the operating condition: CAP_MISMATCH, then BAD_GEOMETRY,
then OUT_OF_BOUNDS, each with nothing changed but STATUS; otherwise the command completes: CALCV and CALCVH write the
vertical sums of all valid positions and V_LEN = N, CALCH invalidates VRES and sets V_LEN = 0; CALCH and CALCVH do the
same horizontally, CALCV invalidates HRES; RES_NX, RES_NY, RES_X0, RES_Y0, OK and the executed strategy; nothing else
changes. (What each named VHAdd strategy needs, R198, is marked there as general knowledge, log 13. Invalidated means
that no entry is specified, log 5. The parameters are in the ranges of 00_scope.md.) -/
def Obligations.CalcRule : Prop :=
  ∀ i ∈ ([.calcvAuto, .calcvNaive, .calcvAvx2, .calcvAvx2v, .calcvAvx512,
      .calchAuto, .calchNaive, .calchAvx2, .calchAvx2v, .calchAvx512,
      .calcvhAuto, .calcvhNaive, .calcvhAvx2, .calcvhAvx2v, .calcvhAvx512] : List Instr),
    ∀ s : State, s.cfg.WF → Operating s →
    (strategySupported i s.cap = false → exec i s = .next (afterFatal .capMismatch s)) ∧
    (strategySupported i s.cap = true → ¬ ExtentsOk s → exec i s = .next (afterRecoverable .badGeometry s)) ∧
    (strategySupported i s.cap = true → ExtentsOk s → ¬ WindowsInside s →
      exec i s = .next (afterFatal .outOfBounds s)) ∧
    (strategySupported i s.cap = true → ExtentsOk s → WindowsInside s →
      ∃ t, exec i s = .next t ∧ CalcCompletes i s t ∧
        (if i ∈ calchCommands then t.vres = [] ∧ t.res.vLen = 0 else VerticalResult s t) ∧
        (if i ∈ calcvCommands then t.hres = [] ∧ t.res.hLen = 0 else HorizontalResult s t))

/-- 43_vhadd.md R193, R194, R195, as the host reads them: after a Calc that completed, REGR of VRES_DATA (HRES_DATA) with
RES_IDX at the index j of a valid position returns the sum mod 65536 of the VEXT samples going down (of the HEXT
samples going right) from the position's anchor; j is below N, j gives the position back, and RES_X0 and RES_Y0 are x_lo
and y_lo. -/
def Obligations.SumsReadBack : Prop :=
  ∀ (i : Instr) (s t : State), s.cfg.WF → Operating s → exec i s = .next t → t.status.lastCode = .ok →
    (i ∈ calcvCommands ++ calcvhCommands → ∀ x y : Int, ValidPosition (geometry s) x y →
      ∃ idx : Word, (idx.toNat : Int) = (y - yLo (geometry s)) * nX (geometry s) + (x - xLo (geometry s)) ∧
        (idx.toNat : Int) < nPositions (geometry s) ∧
        exec (.regr 0x068) { t with ops := { t.ops with resIdx := idx } } =
          .next { t with
            ops := { t.ops with resIdx := idx }
            reply := .word (BitVec.ofNat 32 ((∑ k ∈ Finset.range s.ops.vext.toNat,
              imageSample s (x + sext32 s.ops.offsetX) (y + sext32 s.ops.offsetY + (k : Int))) % 65536)) }) ∧
    (i ∈ calchCommands ++ calcvhCommands → ∀ x y : Int, ValidPosition (geometry s) x y →
      ∃ idx : Word, (idx.toNat : Int) = (y - yLo (geometry s)) * nX (geometry s) + (x - xLo (geometry s)) ∧
        (idx.toNat : Int) < nPositions (geometry s) ∧
        exec (.regr 0x06C) { t with ops := { t.ops with resIdx := idx } } =
          .next { t with
            ops := { t.ops with resIdx := idx }
            reply := .word (BitVec.ofNat 32 ((∑ k ∈ Finset.range s.ops.hext.toNat,
              imageSample s (x + sext32 s.ops.offsetX + (k : Int)) (y + sext32 s.ops.offsetY)) % 65536)) }) ∧
    (i ∈ calcvCommands ++ calchCommands ++ calcvhCommands →
      (t.res.resX0.toNat : Int) = xLo (geometry s) ∧ (t.res.resY0.toNat : Int) = yLo (geometry s) ∧
      ∀ x y : Int, ValidPosition (geometry s) x y → ∀ j : Int,
        j = (y - yLo (geometry s)) * nX (geometry s) + (x - xLo (geometry s)) →
        x = xLo (geometry s) + j % nX (geometry s) ∧ y = yLo (geometry s) + j / nX (geometry s))

/-- CALCVH equals CALCV plus CALCH, whatever supported strategies are named (43_vhadd.md §7, R216, marked there as derived). -/
def Obligations.CalcvhIsCalcvPlusCalch : Prop :=
  ∀ iv ∈ calcvCommands, ∀ ih ∈ calchCommands, ∀ ib ∈ calcvhCommands, ∀ s v h b : State, Operating s →
    exec iv s = .next v → exec ih s = .next h → exec ib s = .next b →
    v.status.lastCode = .ok → h.status.lastCode = .ok → b.status.lastCode = .ok →
    b.vres = v.vres ∧ b.res.vLen = v.res.vLen ∧ b.hres = h.hres ∧ b.res.hLen = h.res.hLen ∧
    b.res.resNx = v.res.resNx ∧ b.res.resNy = v.res.resNy ∧ b.res.resX0 = v.res.resX0 ∧ b.res.resY0 = v.res.resY0 ∧
    h.res.resNx = v.res.resNx ∧ h.res.resNy = v.res.resNy ∧ h.res.resX0 = v.res.resX0 ∧ h.res.resY0 = v.res.resY0

/-- The sliding identity (43_vhadd.md §2, R196, marked there as derived): moving the window by one position is dropping the
sample that leaves it and adding the one that enters it, modulo 2^16, down a column and along a row. -/
def Obligations.SlidingSums : Prop :=
  ∀ (s : State) (x y : Int),
    vSum s x (y + 1) =
      vSum s x y - BitVec.ofNat 16 (imageSample s (x + sext32 s.ops.offsetX) (y + sext32 s.ops.offsetY)) +
        BitVec.ofNat 16
          (imageSample s (x + sext32 s.ops.offsetX) (y + sext32 s.ops.offsetY + (s.ops.vext.toNat : Int))) ∧
    hSum s (x + 1) y =
      hSum s x y - BitVec.ofNat 16 (imageSample s (x + sext32 s.ops.offsetX) (y + sext32 s.ops.offsetY)) +
        BitVec.ofNat 16
          (imageSample s (x + sext32 s.ops.offsetX + (s.ops.hext.toNat : Int)) (y + sext32 s.ops.offsetY))

/-! ## Errors and control (44_control.md, 60_exceptions.md) -/

/-- 44_control.md R230: CLRERR clears ERR_STICKY and LAST_CODE and changes nothing else, whatever CAP holds; in the FAULT state
it is ignored. -/
def Obligations.ClrerrRule : Prop :=
  ∀ s : State,
    (Operating s → exec .clrerr s =
      .next { s with status := { s.status with errSticky := false, lastCode := .ok }, reply := .nothing }) ∧
    (InFault s → exec .clrerr s = .next { s with reply := .nothing })

/-- The order of checks of a REGW to CMD (60_exceptions.md R250), first to last: the FAULT state, an illegal word, CLRERR,
the capability, the operand check of the operation, its bounds check, OK; one code only is reported. A command that
ends with a code other than OK changes nothing but STATUS; for an illegal word only the code is given here, and
`IllegalWordsExactly` gives what it leaves unchanged. Which capability a named strategy needs is in `strategySupported`:
41_lut_create.md R155 for the LUT strategies, 43_vhadd.md R198 for the VHAdd strategies, which the spec marks as general
knowledge (93_implementation_defined.md G2, log 13). -/
def Obligations.PriorityOfChecks : Prop :=
  ∀ (s : State) (w : Word),
    (InFault s → exec (.regw 0x010 w) s = .next { s with reply := .nothing }) ∧
    (Operating s → ∀ e, decode w = .error e →
      ∃ t, exec (.regw 0x010 w) s = .next t ∧ t.status.lastCode = .illegalCmd) ∧
    (Operating s → ∀ i, decode w = .ok i →
      ∃ t, exec (.regw 0x010 w) s = .next t ∧
        t.status.lastCode =
          (if i = .clrerr then .ok
           else if strategySupported i s.cap = false then .capMismatch
           else operandCode i s) ∧
        (t.status.lastCode = .ok ∨
          t = { s with
            status := { s.status with
              lastCode := t.status.lastCode
              errSticky := t.status.errSticky
              fault := t.status.fault }
            reply := .nothing }))

/-- 60_exceptions.md R246: a recoverable error writes its code and ERR_STICKY and changes nothing else, and the core stays in
the operating condition. -/
def Obligations.RecoverableErrorsArePrecise : Prop :=
  ∀ (w : Word) (s t : State), Operating s → exec (.regw 0x010 w) s = .next t →
    t.status.lastCode ∈ ([.invalidWindow, .illegalCmd, .tableNotBuilt, .badGeometry] : List CompletionCode) →
    t = afterRecoverable t.status.lastCode s ∧ Operating t

/-- 60_exceptions.md R247: a fatal fault writes its code and FAULT and changes nothing else; then every REGW to CMD is ignored,
every other transaction works as it does without the FAULT bit, and only RESET leaves the FAULT state. -/
def Obligations.FatalFaultsStopCommandsUntilReset : Prop :=
  (∀ (w : Word) (s t : State), Operating s → exec (.regw 0x010 w) s = .next t →
    t.status.lastCode ∈ ([.capMismatch, .outOfBounds] : List CompletionCode) →
    t = afterFatal t.status.lastCode s ∧ InFault t) ∧
  (∀ (w : Word) (s : State), InFault s → exec (.regw 0x010 w) s = .next { s with reply := .nothing }) ∧
  (∀ i ∈ allCommands, ∀ s : State, InFault s → exec i s = .next { s with reply := .nothing }) ∧
  (∀ (i : Instr) (s t : State), i ∉ allCommands → (∀ w, i ≠ .regw 0x010 w) → i ≠ .regr 0x00C → i ≠ .reset →
    exec i s = .next t →
    exec i { s with status := { s.status with fault := true } } =
      .next { t with status := { t.status with fault := true } }) ∧
  (∀ (i : Instr) (s t : State), InFault s → i ≠ .reset → exec i s = .next t → InFault t) ∧
  (∀ s : State, ∃ t, exec .reset s = .next t ∧ Operating t)

/-! ## What commands read and write (10_state.md R21, R37, R39, R45, 20_memory.md R71, R74) -/

/-- No command writes an operand or index register, CAP, or SRC (10_state.md R21, R24, 20_memory.md R71), nor the parameters,
which are fixed for the life of an instance (00_scope.md R12, 10_state.md R42). That the parameters stand in the state
(`cfg`) is the model's choice (log 2), and so is the list `pending` of the host's further transactions, which no command
touches (log 1). -/
def Obligations.CommandsNeverWriteOperands : Prop :=
  ∀ i ∈ allCommands, ∀ s t : State, exec i s = .next t →
    t.ops = s.ops ∧ t.cap = s.cap ∧ t.src = s.src ∧ t.cfg = s.cfg ∧ t.pending = s.pending

/-- Who writes what (10_state.md §4, 20_memory.md §1): TABLE and the latched window only a CREATE or RESET, VRES, HRES and the
result registers only a Calc or RESET, DST only a CONVERT or DSTW, SRC only SRCW, an operand register only a REGW or
RESET; a REGW to CMD counts as the command it carries. -/
def Obligations.OnlyOwnersWriteMemories : Prop :=
  ∀ (i : Instr) (s t : State), exec i s = .next t → (∀ w, i ≠ .regw 0x010 w) →
    (t.table ≠ s.table ∨ t.win ≠ s.win → i ∈ createCommands ∨ i = .reset) ∧
    (t.vres ≠ s.vres ∨ t.hres ≠ s.hres ∨ t.res ≠ s.res →
      i ∈ calcvCommands ++ calchCommands ++ calcvhCommands ∨ i = .reset) ∧
    (t.dst ≠ s.dst → i ∈ convertCommands ∨ ∃ a v, i = .dstw a v) ∧
    (t.src ≠ s.src → ∃ a v, i = .srcw a v) ∧
    (t.ops ≠ s.ops → (∃ off v, i = .regw off v) ∨ i = .reset)

/-- A register a command does not read has no effect on it (10_state.md §7, R45, marked there as derived): CREATE reads only
WIN_MIN and WIN_MAX, CONVERT only SRC_BASE, DST_BASE and LENGTH, a Calc only SRC_BASE, VH_SIZE, OFFSET_X, OFFSET_Y, HEXT
and VEXT, CLRERR none; no command reads TBL_IDX or RES_IDX. -/
def Obligations.UnreadOperandsHaveNoEffect : Prop :=
  ∀ (i : Instr) (s t : State) (o : OperandRegs), exec i s = .next t →
    (i ∈ createCommands ∧ o.winMin = s.ops.winMin ∧ o.winMax = s.ops.winMax ∨
      i ∈ convertCommands ∧ o.srcBase = s.ops.srcBase ∧ o.dstBase = s.ops.dstBase ∧ o.length = s.ops.length ∨
      i ∈ calcvCommands ++ calchCommands ++ calcvhCommands ∧ o.srcBase = s.ops.srcBase ∧
        o.vhSize = s.ops.vhSize ∧ o.offsetX = s.ops.offsetX ∧ o.offsetY = s.ops.offsetY ∧
        o.hext = s.ops.hext ∧ o.vext = s.ops.vext ∨
      i = .clrerr) →
    exec i { s with ops := o } = .next { t with ops := o }

/-! ## Laws of the whole machine -/

/-- Strategy independence (41_lut_create.md §4, 42_lut_convert.md §3, 43_vhadd.md §7): two commands of one operation that both
succeed from one state leave the same state but for LAST_STRAT. (The premises are invariants every step keeps.) -/
def Obligations.StrategiesAgree : Prop :=
  ∀ op ∈ [createCommands, convertCommands, calcvCommands, calchCommands, calcvhCommands], ∀ i ∈ op, ∀ j ∈ op,
    ∀ s t u : State, Operating s → TableOk s → MemoriesOk s → exec i s = .next t → exec j s = .next u →
      t.status.lastCode = .ok → u.status.lastCode = .ok →
      { t with status := { t.status with lastStrat := u.status.lastStrat } } = u

/-- Idempotence: a command issued again right after it ended, with whatever code, leaves the state it left the first time.
For a command that succeeds this is 41_lut_create.md R162, 42_lut_convert.md R182 and 43_vhadd.md R218; for CLRERR it
follows from 44_control.md R230, for one that ends with an error from 60_exceptions.md R246 and R247, and in the FAULT
state from 10_state.md R40. (The premises are invariants every step keeps.) -/
def Obligations.CommandsAreIdempotent : Prop :=
  ∀ i ∈ allCommands, ∀ s t : State, TableOk s → MemoriesOk s → exec i s = .next t → exec i t = .next t

/-- The parameters are fixed for the life of an instance: no step changes them (00_scope.md §4, 10_state.md §5; that they stand
in the state is the model's choice, log 2). -/
def Obligations.ParametersNeverChange : Prop :=
  ∀ s t : State, step s = .next t → t.cfg = s.cfg

/-- The table invariant (10_state.md §4, R38, marked there as derived): every step keeps that TABLE holds F of the latched
window whenever TABLE_VALID = 1. -/
def Obligations.TableInvariantKept : Prop :=
  ∀ s t : State, TableOk s → step s = .next t → TableOk t

/-- The scratch invariant (10_state.md §3 and §4): every step keeps that V_LEN and H_LEN are the numbers of valid entries, which
fit the scratch memories, and that each is 0 or RES_NX times RES_NY. -/
def Obligations.ScratchInvariantKept : Prop :=
  ∀ s t : State, s.cfg.WF → ScratchOk s → step s = .next t → ScratchOk t

/-- The status invariant (60_exceptions.md §2): every step keeps that FAULT is 1 exactly when LAST_CODE is fatal, and that a
recoverable LAST_CODE leaves ERR_STICKY set. -/
def Obligations.StatusInvariantKept : Prop :=
  ∀ s t : State, StatusOk s → step s = .next t → StatusOk t

/-- The memories' form (20_memory.md §1): every step keeps that SRC and DST are in canonical form (the model's own, log 6) and
list no element outside their spaces, so no command and no transaction ever writes outside SRC or DST. -/
def Obligations.MemoryFormKept : Prop :=
  ∀ s t : State, MemoriesOk s → step s = .next t → MemoriesOk t

/-- All the invariants hold right after reset, whatever the parameters are (10_state.md §6; the values of `pending`, `reply`,
`draws`, SRC and DST there are the model's choice, log 1, 3, 4, 6). -/
def Obligations.InvariantsAtReset : Prop :=
  ∀ c : Config,
    TableOk (State.resetWith c) ∧ ScratchOk (State.resetWith c) ∧ StatusOk (State.resetWith c) ∧
    MemoriesOk (State.resetWith c) ∧ CapOk (State.resetWith c) ∧ Operating (State.resetWith c) ∧
    State.reset = State.resetWith Config.reference ∧ Config.reference.WF
end

