-- ==== Sys2Proof/Laws/Decode.lean ====
section
/-! SUPPORT. The command word: its fields as numbers, the fields of a composed word, and that `decode` gives commands
only. -/

namespace Sys2Proof.Machine

open Sys2Proof

/-- OP as a number: the word modulo 16 (30_encoding.md R101). -/
theorem opField_toNat (w : Word) : (opField w).toNat = w.toNat % 16 := by
  simp [opField, BitVec.extractLsb'_toNat]

/-- STRAT as a number. -/
theorem stratField_toNat (w : Word) : (stratField w).toNat = w.toNat / 16 % 16 := by
  simp [stratField, BitVec.extractLsb'_toNat, Nat.shiftRight_eq_div_pow]

/-- Bits 31:8 are zero exactly in the words below 256. -/
theorem zeroField_eq_zero_iff (w : Word) : zeroField w = 0#24 ↔ w.toNat < 256 := by
  rw [← BitVec.toNat_inj]
  simp only [zeroField, BitVec.extractLsb'_toNat, Nat.shiftRight_eq_div_pow, BitVec.toNat_ofNat]
  have := w.isLt
  omega

/-- A command word as a number, `OP | (STRAT << 4)` (30_encoding.md R106). -/
theorem commandWord_toNat (op strat : BitVec 4) : (commandWord op strat).toNat = 16 * strat.toNat + op.toNat := by
  have h1 := op.isLt
  have h2 := strat.isLt
  simp only [commandWord, BitVec.toNat_append, BitVec.toNat_ofNat]
  rw [← Nat.shiftLeft_add_eq_or_of_lt (by omega), ← Nat.shiftLeft_add_eq_or_of_lt (by omega)]
  simp only [Nat.shiftLeft_eq]
  omega

/-- A word whose bits 31:8 are zero is the command word of its fields. -/
theorem eq_commandWord_of_zeroField (w : Word) (h : zeroField w = 0#24) :
    w = commandWord (opField w) (stratField w) := by
  rw [← BitVec.toNat_inj, commandWord_toNat, opField_toNat, stratField_toNat]
  have := (zeroField_eq_zero_iff w).1 h
  omega

/-- What `decode` answers is a command, never a host transaction (30_encoding.md R108). -/
theorem decode_isCommand (w : Word) (i : Instr) (h : decode w = .ok i) : i ∈ allCommands := by
  unfold decode at h
  split at h
  · split at h
    · unfold decodeCreate at h; split at h <;> cases h <;> decide
    · unfold decodeConvert at h; split at h <;> cases h <;> decide
    · unfold decodeCalcv at h; split at h <;> cases h <;> decide
    · unfold decodeCalch at h; split at h <;> cases h <;> decide
    · unfold decodeCalcvh at h; split at h <;> cases h <;> decide
    · unfold decodeClrerr at h; split at h <;> cases h; decide
    · cases h
  · cases h

end Sys2Proof.Machine
end

