-- ==== Sys2Proof/Laws/State.lean ====
section
/-! SUPPORT. One lemma for each field of the state under each named update: a proof never unfolds a record update. -/

namespace Sys2Proof.Machine

open Sys2Proof

/-! ## answer -/

@[simp] theorem answer_cfg (r : Reply) (s : State) : (answer r s).cfg = s.cfg := rfl
@[simp] theorem answer_cap (r : Reply) (s : State) : (answer r s).cap = s.cap := rfl
@[simp] theorem answer_status (r : Reply) (s : State) : (answer r s).status = s.status := rfl
@[simp] theorem answer_ops (r : Reply) (s : State) : (answer r s).ops = s.ops := rfl
@[simp] theorem answer_win (r : Reply) (s : State) : (answer r s).win = s.win := rfl
@[simp] theorem answer_res (r : Reply) (s : State) : (answer r s).res = s.res := rfl
@[simp] theorem answer_table (r : Reply) (s : State) : (answer r s).table = s.table := rfl
@[simp] theorem answer_vres (r : Reply) (s : State) : (answer r s).vres = s.vres := rfl
@[simp] theorem answer_hres (r : Reply) (s : State) : (answer r s).hres = s.hres := rfl
@[simp] theorem answer_src (r : Reply) (s : State) : (answer r s).src = s.src := rfl
@[simp] theorem answer_dst (r : Reply) (s : State) : (answer r s).dst = s.dst := rfl
@[simp] theorem answer_pending (r : Reply) (s : State) : (answer r s).pending = s.pending := rfl
@[simp] theorem answer_reply (r : Reply) (s : State) : (answer r s).reply = r := rfl
@[simp] theorem answer_draws (r : Reply) (s : State) : (answer r s).draws = s.draws := rfl

/-! ## raise -/

@[simp] theorem raise_cfg (c : CompletionCode) (s : State) : (raise c s).cfg = s.cfg := rfl
@[simp] theorem raise_cap (c : CompletionCode) (s : State) : (raise c s).cap = s.cap := rfl
@[simp] theorem raise_status (c : CompletionCode) (s : State) :
    (raise c s).status = statusOnError c s.status := rfl
@[simp] theorem raise_ops (c : CompletionCode) (s : State) : (raise c s).ops = s.ops := rfl
@[simp] theorem raise_win (c : CompletionCode) (s : State) : (raise c s).win = s.win := rfl
@[simp] theorem raise_res (c : CompletionCode) (s : State) : (raise c s).res = s.res := rfl
@[simp] theorem raise_table (c : CompletionCode) (s : State) : (raise c s).table = s.table := rfl
@[simp] theorem raise_vres (c : CompletionCode) (s : State) : (raise c s).vres = s.vres := rfl
@[simp] theorem raise_hres (c : CompletionCode) (s : State) : (raise c s).hres = s.hres := rfl
@[simp] theorem raise_src (c : CompletionCode) (s : State) : (raise c s).src = s.src := rfl
@[simp] theorem raise_dst (c : CompletionCode) (s : State) : (raise c s).dst = s.dst := rfl
@[simp] theorem raise_pending (c : CompletionCode) (s : State) : (raise c s).pending = s.pending := rfl
@[simp] theorem raise_reply (c : CompletionCode) (s : State) : (raise c s).reply = s.reply := rfl
@[simp] theorem raise_draws (c : CompletionCode) (s : State) : (raise c s).draws = s.draws := rfl

/-! ## succeed -/

@[simp] theorem succeed_cfg (k : BitVec 4) (s : State) : (succeed k s).cfg = s.cfg := rfl
@[simp] theorem succeed_cap (k : BitVec 4) (s : State) : (succeed k s).cap = s.cap := rfl
@[simp] theorem succeed_status (k : BitVec 4) (s : State) :
    (succeed k s).status = statusOnSuccess k s.status := rfl
@[simp] theorem succeed_ops (k : BitVec 4) (s : State) : (succeed k s).ops = s.ops := rfl
@[simp] theorem succeed_win (k : BitVec 4) (s : State) : (succeed k s).win = s.win := rfl
@[simp] theorem succeed_res (k : BitVec 4) (s : State) : (succeed k s).res = s.res := rfl
@[simp] theorem succeed_table (k : BitVec 4) (s : State) : (succeed k s).table = s.table := rfl
@[simp] theorem succeed_vres (k : BitVec 4) (s : State) : (succeed k s).vres = s.vres := rfl
@[simp] theorem succeed_hres (k : BitVec 4) (s : State) : (succeed k s).hres = s.hres := rfl
@[simp] theorem succeed_src (k : BitVec 4) (s : State) : (succeed k s).src = s.src := rfl
@[simp] theorem succeed_dst (k : BitVec 4) (s : State) : (succeed k s).dst = s.dst := rfl
@[simp] theorem succeed_pending (k : BitVec 4) (s : State) : (succeed k s).pending = s.pending := rfl
@[simp] theorem succeed_reply (k : BitVec 4) (s : State) : (succeed k s).reply = s.reply := rfl
@[simp] theorem succeed_draws (k : BitVec 4) (s : State) : (succeed k s).draws = s.draws := rfl

/-! ## acknowledge -/

@[simp] theorem acknowledge_cfg (s : State) : (acknowledge s).cfg = s.cfg := rfl
@[simp] theorem acknowledge_cap (s : State) : (acknowledge s).cap = s.cap := rfl
@[simp] theorem acknowledge_status (s : State) : (acknowledge s).status = statusOnClrerr s.status := rfl
@[simp] theorem acknowledge_ops (s : State) : (acknowledge s).ops = s.ops := rfl
@[simp] theorem acknowledge_win (s : State) : (acknowledge s).win = s.win := rfl
@[simp] theorem acknowledge_res (s : State) : (acknowledge s).res = s.res := rfl
@[simp] theorem acknowledge_table (s : State) : (acknowledge s).table = s.table := rfl
@[simp] theorem acknowledge_vres (s : State) : (acknowledge s).vres = s.vres := rfl
@[simp] theorem acknowledge_hres (s : State) : (acknowledge s).hres = s.hres := rfl
@[simp] theorem acknowledge_src (s : State) : (acknowledge s).src = s.src := rfl
@[simp] theorem acknowledge_dst (s : State) : (acknowledge s).dst = s.dst := rfl
@[simp] theorem acknowledge_pending (s : State) : (acknowledge s).pending = s.pending := rfl
@[simp] theorem acknowledge_reply (s : State) : (acknowledge s).reply = s.reply := rfl
@[simp] theorem acknowledge_draws (s : State) : (acknowledge s).draws = s.draws := rfl

/-! ## drawByte -/

@[simp] theorem drawByte_cfg (s : State) : (drawByte s).2.cfg = s.cfg := rfl
@[simp] theorem drawByte_cap (s : State) : (drawByte s).2.cap = s.cap := rfl
@[simp] theorem drawByte_status (s : State) : (drawByte s).2.status = s.status := rfl
@[simp] theorem drawByte_ops (s : State) : (drawByte s).2.ops = s.ops := rfl
@[simp] theorem drawByte_win (s : State) : (drawByte s).2.win = s.win := rfl
@[simp] theorem drawByte_res (s : State) : (drawByte s).2.res = s.res := rfl
@[simp] theorem drawByte_table (s : State) : (drawByte s).2.table = s.table := rfl
@[simp] theorem drawByte_vres (s : State) : (drawByte s).2.vres = s.vres := rfl
@[simp] theorem drawByte_hres (s : State) : (drawByte s).2.hres = s.hres := rfl
@[simp] theorem drawByte_src (s : State) : (drawByte s).2.src = s.src := rfl
@[simp] theorem drawByte_dst (s : State) : (drawByte s).2.dst = s.dst := rfl
@[simp] theorem drawByte_pending (s : State) : (drawByte s).2.pending = s.pending := rfl
@[simp] theorem drawByte_reply (s : State) : (drawByte s).2.reply = s.reply := rfl
@[simp] theorem drawByte_draws (s : State) : (drawByte s).2.draws = s.draws + 1 := rfl

/-! ## drawSample -/

@[simp] theorem drawSample_cfg (s : State) : (drawSample s).2.cfg = s.cfg := rfl
@[simp] theorem drawSample_cap (s : State) : (drawSample s).2.cap = s.cap := rfl
@[simp] theorem drawSample_status (s : State) : (drawSample s).2.status = s.status := rfl
@[simp] theorem drawSample_ops (s : State) : (drawSample s).2.ops = s.ops := rfl
@[simp] theorem drawSample_win (s : State) : (drawSample s).2.win = s.win := rfl
@[simp] theorem drawSample_res (s : State) : (drawSample s).2.res = s.res := rfl
@[simp] theorem drawSample_table (s : State) : (drawSample s).2.table = s.table := rfl
@[simp] theorem drawSample_vres (s : State) : (drawSample s).2.vres = s.vres := rfl
@[simp] theorem drawSample_hres (s : State) : (drawSample s).2.hres = s.hres := rfl
@[simp] theorem drawSample_src (s : State) : (drawSample s).2.src = s.src := rfl
@[simp] theorem drawSample_dst (s : State) : (drawSample s).2.dst = s.dst := rfl
@[simp] theorem drawSample_pending (s : State) : (drawSample s).2.pending = s.pending := rfl
@[simp] theorem drawSample_reply (s : State) : (drawSample s).2.reply = s.reply := rfl
@[simp] theorem drawSample_draws (s : State) : (drawSample s).2.draws = s.draws + 1 := rfl

/-! ## resetCore -/

@[simp] theorem resetCore_cfg (s : State) : (resetCore s).cfg = s.cfg := rfl
@[simp] theorem resetCore_cap (s : State) :
    (resetCore s).cap = { mid := s.cfg.capMid, adv := s.cfg.capAdv, byte := s.cfg.capByte } := rfl
@[simp] theorem resetCore_status (s : State) : (resetCore s).status = Status.reset := rfl
@[simp] theorem resetCore_ops (s : State) : (resetCore s).ops = OperandRegs.reset := rfl
@[simp] theorem resetCore_win (s : State) : (resetCore s).win = { curMin := 0, curMax := 0 } := rfl
@[simp] theorem resetCore_res (s : State) : (resetCore s).res = ResultRegs.reset := rfl
@[simp] theorem resetCore_table (s : State) : (resetCore s).table = [] := rfl
@[simp] theorem resetCore_vres (s : State) : (resetCore s).vres = [] := rfl
@[simp] theorem resetCore_hres (s : State) : (resetCore s).hres = [] := rfl
@[simp] theorem resetCore_src (s : State) : (resetCore s).src = s.src := rfl
@[simp] theorem resetCore_dst (s : State) : (resetCore s).dst = s.dst := rfl
@[simp] theorem resetCore_pending (s : State) : (resetCore s).pending = s.pending := rfl
@[simp] theorem resetCore_reply (s : State) : (resetCore s).reply = s.reply := rfl
@[simp] theorem resetCore_draws (s : State) : (resetCore s).draws = s.draws := rfl

/-! ## buildTable -/

@[simp] theorem buildTable_cfg (s : State) : (buildTable s).cfg = s.cfg := rfl
@[simp] theorem buildTable_cap (s : State) : (buildTable s).cap = s.cap := rfl
@[simp] theorem buildTable_status (s : State) : (buildTable s).status = { s.status with tableValid := true } := rfl
@[simp] theorem buildTable_ops (s : State) : (buildTable s).ops = s.ops := rfl
@[simp] theorem buildTable_win (s : State) :
    (buildTable s).win = { curMin := s.ops.winMin, curMax := s.ops.winMax } := rfl
@[simp] theorem buildTable_res (s : State) : (buildTable s).res = s.res := rfl
@[simp] theorem buildTable_table (s : State) :
    (buildTable s).table = remapTable (sext32 s.ops.winMin) (sext32 s.ops.winMax) := rfl
@[simp] theorem buildTable_vres (s : State) : (buildTable s).vres = s.vres := rfl
@[simp] theorem buildTable_hres (s : State) : (buildTable s).hres = s.hres := rfl
@[simp] theorem buildTable_src (s : State) : (buildTable s).src = s.src := rfl
@[simp] theorem buildTable_dst (s : State) : (buildTable s).dst = s.dst := rfl
@[simp] theorem buildTable_pending (s : State) : (buildTable s).pending = s.pending := rfl
@[simp] theorem buildTable_reply (s : State) : (buildTable s).reply = s.reply := rfl
@[simp] theorem buildTable_draws (s : State) : (buildTable s).draws = s.draws := rfl

/-! ## storeResults -/

@[simp] theorem storeResults_cfg (op : VhOp) (s : State) : (storeResults op s).cfg = s.cfg := rfl
@[simp] theorem storeResults_cap (op : VhOp) (s : State) : (storeResults op s).cap = s.cap := rfl
@[simp] theorem storeResults_status (op : VhOp) (s : State) : (storeResults op s).status = s.status := rfl
@[simp] theorem storeResults_ops (op : VhOp) (s : State) : (storeResults op s).ops = s.ops := rfl
@[simp] theorem storeResults_win (op : VhOp) (s : State) : (storeResults op s).win = s.win := rfl
@[simp] theorem storeResults_table (op : VhOp) (s : State) : (storeResults op s).table = s.table := rfl
@[simp] theorem storeResults_vres (op : VhOp) (s : State) :
    (storeResults op s).vres = if computesV op then positionResults (geometry s) (vSum s) else [] := rfl
@[simp] theorem storeResults_hres (op : VhOp) (s : State) :
    (storeResults op s).hres = if computesH op then positionResults (geometry s) (hSum s) else [] := rfl
@[simp] theorem storeResults_src (op : VhOp) (s : State) : (storeResults op s).src = s.src := rfl
@[simp] theorem storeResults_dst (op : VhOp) (s : State) : (storeResults op s).dst = s.dst := rfl
@[simp] theorem storeResults_pending (op : VhOp) (s : State) : (storeResults op s).pending = s.pending := rfl
@[simp] theorem storeResults_reply (op : VhOp) (s : State) : (storeResults op s).reply = s.reply := rfl
@[simp] theorem storeResults_draws (op : VhOp) (s : State) : (storeResults op s).draws = s.draws := rfl

/-! ## STATUS after each kind of completion -/

@[simp] theorem statusOnError_tableValid (c : CompletionCode) (st : Status) : (statusOnError c st).tableValid = st.tableValid := rfl
@[simp] theorem statusOnError_fault (c : CompletionCode) (st : Status) : (statusOnError c st).fault = (st.fault || isFatal c) := rfl
@[simp] theorem statusOnError_errSticky (c : CompletionCode) (st : Status) : (statusOnError c st).errSticky = (st.errSticky || isRecoverable c) := rfl
@[simp] theorem statusOnError_lastCode (c : CompletionCode) (st : Status) : (statusOnError c st).lastCode = c := rfl
@[simp] theorem statusOnError_lastStrat (c : CompletionCode) (st : Status) : (statusOnError c st).lastStrat = st.lastStrat := rfl
@[simp] theorem statusOnSuccess_tableValid (k : BitVec 4) (st : Status) : (statusOnSuccess k st).tableValid = st.tableValid := rfl
@[simp] theorem statusOnSuccess_fault (k : BitVec 4) (st : Status) : (statusOnSuccess k st).fault = st.fault := rfl
@[simp] theorem statusOnSuccess_errSticky (k : BitVec 4) (st : Status) : (statusOnSuccess k st).errSticky = st.errSticky := rfl
@[simp] theorem statusOnSuccess_lastCode (k : BitVec 4) (st : Status) : (statusOnSuccess k st).lastCode = .ok := rfl
@[simp] theorem statusOnSuccess_lastStrat (k : BitVec 4) (st : Status) : (statusOnSuccess k st).lastStrat = k := rfl
@[simp] theorem statusOnClrerr_tableValid (st : Status) : (statusOnClrerr st).tableValid = st.tableValid := rfl
@[simp] theorem statusOnClrerr_fault (st : Status) : (statusOnClrerr st).fault = st.fault := rfl
@[simp] theorem statusOnClrerr_errSticky (st : Status) : (statusOnClrerr st).errSticky = false := rfl
@[simp] theorem statusOnClrerr_lastCode (st : Status) : (statusOnClrerr st).lastCode = .ok := rfl
@[simp] theorem statusOnClrerr_lastStrat (st : Status) : (statusOnClrerr st).lastStrat = st.lastStrat := rfl

end Sys2Proof.Machine
end

