-- ==== Sys2Proof/Laws/Outcome.lean ====
section
/-! SUPPORT. What the gate, the errors and the strategy resolution can do, said once. -/

namespace Sys2Proof.Machine

open Sys2Proof

/-- The gate always answers a next state: the state itself in the FAULT state, else the body's (10_state.md R40). -/
theorem runGated_next (body : State → State) (s : State) :
    runGated body s = .next (answer .nothing (if s.status.fault then s else body s)) := rfl

/-- The gate in the operating condition. -/
theorem runGated_operating (body : State → State) (s : State) (h : Operating s) :
    runGated body s = .next (answer .nothing (body s)) := by simp [runGated, h]

/-- The gate in the FAULT state. -/
theorem runGated_inFault (body : State → State) (s : State) (h : InFault s) :
    runGated body s = .next (answer .nothing s) := by simp [runGated, h]

/-- What a gated command can leave. -/
theorem runGated_cases {body : State → State} {s t : State} (h : runGated body s = .next t) :
    (InFault s ∧ t = answer .nothing s) ∨ (Operating s ∧ t = answer .nothing (body s)) := by
  cases hf : s.status.fault
  · exact .inr ⟨hf, by rw [runGated_operating _ _ hf] at h; exact (Host.Outcome.next.inj h).symm⟩
  · exact .inl ⟨hf, by rw [runGated_inFault _ _ hf] at h; exact (Host.Outcome.next.inj h).symm⟩

/-- A recoverable error, in the operating condition (60_exceptions.md R246). -/
theorem answer_raise_recoverable (c : CompletionCode) (s : State) (hc : isRecoverable c = true)
    (hn : isFatal c = false) : answer .nothing (raise c s) = afterRecoverable c s := by
  simp [answer, raise, statusOnError, hc, hn]

/-- A fatal error (60_exceptions.md R247). -/
theorem answer_raise_fatal (c : CompletionCode) (s : State) (hc : isFatal c = true)
    (hn : isRecoverable c = false) : answer .nothing (raise c s) = afterFatal c s := by
  simp [answer, raise, statusOnError, hc, hn]

/-- What SelectCreate picks is supported, so AUTO never mismatches (41_lut_create.md R156). -/
theorem resolveCreate_auto (c : Cap) : resolveCreate .auto c = some (selectCreate c) := rfl

/-- What SelectConvert picks is always taken (42_lut_convert.md R173). -/
theorem resolveConvert_auto (c : Cap) : resolveConvert .auto c = some (selectConvert c) := rfl

/-- What SelectVH picks is always taken (43_vhadd.md R199). -/
theorem resolveVh_auto (op : VhOp) (c : Cap) : resolveVh op .auto c = some (selectVh op c) := rfl

/-- An explicit LUT strategy runs exactly where it is supported (41_lut_create.md R155). -/
theorem resolveCreate_explicit (st : LutStrat) (c : Cap) (h : st ≠ .auto) :
    resolveCreate st c = if lutSupported st c then some st else none := by simp [resolveCreate, h]

/-- An explicit LUT strategy runs exactly where it is supported (42_lut_convert.md R170). -/
theorem resolveConvert_explicit (st : LutStrat) (c : Cap) (h : st ≠ .auto) :
    resolveConvert st c = if lutSupported st c then some st else none := by simp [resolveConvert, h]

/-- An explicit VHAdd strategy runs exactly where it is supported (43_vhadd.md R198). -/
theorem resolveVh_explicit (op : VhOp) (st : VhStrat) (c : Cap) (h : st ≠ .auto) :
    resolveVh op st c = if vhSupported st c then some st else none := by simp [resolveVh, h]

end Sys2Proof.Machine
end

