-- ==== Sys2Proof/Laws/Calc.lean ====
section
/-! SUPPORT. The Calc commands: sizes of the geometry's numbers, entries of the result lists, and what `calcCore` can
do. -/

namespace Sys2Proof.Machine

open Sys2Proof

/-- The sum of R194 and R195 as a finite sum. -/
theorem sumTo_eq_sum (n : Nat) (f : Nat → Nat) : sumTo n f = ∑ k ∈ Finset.range n, f k := by
  induction n with
  | zero => rfl
  | succ n ih => rw [sumTo, ih, Finset.sum_range_succ]

/-- A sample of the image (43_vhadd.md R190), as the statements write it. -/
theorem sampleAt_eq (s : State) (x y : Int) : sampleAt s x y = imageSample s x y := rfl

/-- NX and NY are not negative, so N is not (43_vhadd.md R192). -/
theorem nX_nonneg (g : Geometry) : 0 ≤ nX g := by simp [nX]

/-- NY is not negative. -/
theorem nY_nonneg (g : Geometry) : 0 ≤ nY g := by simp [nY]

/-- N is not negative. -/
theorem nPositions_nonneg (g : Geometry) : 0 ≤ nPositions g := mul_nonneg (nX_nonneg g) (nY_nonneg g)

/-- NX is at most IMG_W (45_operation_classes.md R300). -/
theorem nX_le (g : Geometry) (hw : 0 ≤ g.imgW) : nX g ≤ g.imgW := by
  simp only [nX, xHi, xLo]; omega

/-- NY is at most IMG_H. -/
theorem nY_le (g : Geometry) (hh : 0 ≤ g.imgH) : nY g ≤ g.imgH := by
  simp only [nY, yHi, yLo]; omega

/-- N is at most IMG_W × IMG_H, the scratch capacity, "so the results always fit" (43_vhadd.md R200). -/
theorem nPositions_le (g : Geometry) (hw : 0 ≤ g.imgW) (hh : 0 ≤ g.imgH) : nPositions g ≤ g.imgW * g.imgH :=
  mul_le_mul (nX_le g hw) (nY_le g hh) (nY_nonneg g) hw

/-- A number in the range of a register is kept by `trunc_32` (00_scope.md R14). -/
theorem trunc32_toNat (v : Int) (h0 : 0 ≤ v) (h1 : v < 2 ^ 32) : ((trunc32 v).toNat : Int) = v := by
  simp only [trunc32, BitVec.toNat_ofInt]
  omega

/-- The range of `sext_32`. -/
theorem sext32_range (w : Word) : -2147483648 ≤ sext32 w ∧ sext32 w ≤ 2147483647 := by
  have h1 := w.toInt_lt
  have h2 := w.le_toInt
  simp only [sext32]
  omega

/-- The result list has N entries (43_vhadd.md R193). -/
theorem positionResults_length (g : Geometry) (f : Int → Int → Sample) :
    ((positionResults g f).length : Int) = nPositions g := by
  simp [positionResults, Int.toNat_of_nonneg (nPositions_nonneg g)]

/-- Entry j is the result of the position (x_lo + (j mod NX), y_lo + floor(j / NX)) (43_vhadd.md R193). -/
theorem positionResults_getElem? (g : Geometry) (f : Int → Int → Sample) (j : Nat) (h : (j : Int) < nPositions g) :
    (positionResults g f)[j]? = some (f (xLo g + (j : Int) % nX g) (yLo g + (j : Int) / nX g)) := by
  rw [positionResults, List.getElem?_map, List.getElem?_range' (by omega)]
  simp

/-- The bounds check of R197 is `WindowsInside`. -/
theorem calcOutOfBounds_iff (s : State) : calcOutOfBounds s = false ↔ WindowsInside s := by
  have := nPositions_nonneg (geometry s)
  have hsize : (geometry s).size = zext32 s.ops.vhSize := rfl
  simp only [calcOutOfBounds, WindowsInside, Bool.and_eq_false_iff, Bool.or_eq_false_iff,
    decide_eq_false_iff_not, hsize]
  omega

/-- Everything `calcCore` can do (43_vhadd.md R200). -/
theorem calcCore_cases (op : VhOp) (st : VhStrat) (s : State) :
    (resolveVh op st s.cap = none ∧ calcCore op st s = raise .capMismatch s) ∨
    (∃ e, resolveVh op st s.cap = some e ∧ ¬ ExtentsOk s ∧ calcCore op st s = raise .badGeometry s) ∨
    (∃ e, resolveVh op st s.cap = some e ∧ ExtentsOk s ∧ ¬ WindowsInside s ∧
      calcCore op st s = raise .outOfBounds s) ∨
    (∃ e, resolveVh op st s.cap = some e ∧ ExtentsOk s ∧ WindowsInside s ∧
      calcCore op st s = succeed (vhCode e) (storeResults op s)) := by
  cases h : resolveVh op st s.cap with
  | none => exact .inl ⟨rfl, by simp [calcCore, h]⟩
  | some e =>
    by_cases hx : ExtentsOk s
    · have hx' : ¬ (s.ops.hext = 0 ∨ s.ops.vext = 0) := not_or.2 hx
      by_cases hb : WindowsInside s
      · exact .inr (.inr (.inr ⟨e, rfl, hx, hb, by
          simp only [calcCore, h, if_neg hx', (calcOutOfBounds_iff s).2 hb, Bool.false_eq_true, if_false]⟩))
      · refine .inr (.inr (.inl ⟨e, rfl, hx, hb, ?_⟩))
        have : calcOutOfBounds s = true := by
          rw [← Bool.not_eq_false]; exact fun hc => hb ((calcOutOfBounds_iff s).1 hc)
        simp only [calcCore, h, if_neg hx', this, if_true]
    · have hx' : s.ops.hext = 0 ∨ s.ops.vext = 0 := by
        exact Classical.byContradiction fun hc => hx (not_or.1 hc)
      exact .inr (.inl ⟨e, rfl, hx, by simp only [calcCore, h, if_pos hx']⟩)

end Sys2Proof.Machine
end

