-- ==== Sys2Proof/Laws/Create.lean ====
section
/-! SUPPORT. F and CREATE: the table's entries, and what `createCore` can do. -/

namespace Sys2Proof.Machine

open Sys2Proof

/-- F is in 0 to 255 (41_lut_create.md R152 (a)). -/
theorem remap_range (mn mx i : Int) : 0 ≤ remap mn mx i ∧ remap mn mx i ≤ 255 := by
  simp only [remap, clamp]
  split
  · omega
  · split <;> omega

/-- The 8-bit value of F is F. -/
theorem remapByte_toNat (mn mx i : Int) : ((remapByte mn mx i).toNat : Int) = remap mn mx i := by
  obtain ⟨h0, h1⟩ := remap_range mn mx i
  simp only [remapByte, BitVec.toNat_ofInt]
  omega

/-- The Remap Table has 65536 entries (10_state.md R37). -/
@[simp] theorem remapTable_length (mn mx : Int) : (remapTable mn mx).length = 65536 := by simp [remapTable]

/-- Entry k of the Remap Table of a window is F of it at k (41_lut_create.md R154). -/
theorem remapTable_getElem? (mn mx : Int) (k : Nat) (h : k < 65536) :
    (remapTable mn mx)[k]? = some (remapByte mn mx (k : Int)) := by
  rw [remapTable, List.getElem?_map, List.getElem?_range' h]
  simp

/-- A list of 65536 entries that holds F of a window everywhere is the Remap Table of that window. -/
theorem eq_remapTable (l : List Byte) (mn mx : Int) (hl : l.length = 65536)
    (h : ∀ k : Nat, k < 65536 → l[k]? = some (remapByte mn mx (k : Int))) : l = remapTable mn mx := by
  apply List.ext_getElem?
  intro k
  by_cases hk : k < 65536
  · rw [h k hk, remapTable_getElem? mn mx k hk]
  · rw [List.getElem?_eq_none (by omega), List.getElem?_eq_none (by simp; omega)]

/-- Everything `createCore` can do (41_lut_create.md R154). -/
theorem createCore_cases (st : LutStrat) (s : State) :
    (resolveCreate st s.cap = none ∧ createCore st s = raise .capMismatch s) ∨
    (∃ e, resolveCreate st s.cap = some e ∧ ¬ WindowOk s ∧ createCore st s = raise .invalidWindow s) ∨
    (∃ e, resolveCreate st s.cap = some e ∧ WindowOk s ∧ createCore st s = succeed (lutCode e) (buildTable s)) := by
  cases h : resolveCreate st s.cap with
  | none => exact .inl ⟨rfl, by simp [createCore, h]⟩
  | some e =>
    by_cases hw : WindowOk s
    · exact .inr (.inr ⟨e, rfl, hw, by simp [createCore, h, hw]⟩)
    · exact .inr (.inl ⟨e, rfl, hw, by simp [createCore, h, hw]⟩)

end Sys2Proof.Machine
end

