-- ==== Sys2Proof/Laws/Memory.lean ====
section
/-! SUPPORT. SRC and DST: a read after a write, the canonical form, and equal reads make equal memories. -/

namespace Sys2Proof.Machine

open Sys2Proof

/-- The rest of a canonical memory is canonical. -/
theorem Memory.wf_rest {w : Nat} {c : Nat × BitVec w} {rest : Memory w} (h : Memory.wf (c :: rest)) :
    Memory.wf rest :=
  ⟨h.1.of_cons, fun d hd => h.2 d (List.mem_cons_of_mem _ hd)⟩

/-- The first address of a canonical memory is below all others. -/
theorem Memory.wf_lt {w : Nat} {c : Nat × BitVec w} {rest : Memory w} (h : Memory.wf (c :: rest)) :
    ∀ d ∈ rest, c.1 < d.1 :=
  fun _ hd => List.rel_of_pairwise_cons h.1 hd

/-- Below every listed address a memory reads 0. -/
theorem memRead_eq_zero_of_lt {w : Nat} (m : Memory w) (x : Nat) (h : ∀ d ∈ m, x < d.1) : memRead m x = 0#w := by
  induction m with
  | nil => rfl
  | cons d m ih =>
    have := h d List.mem_cons_self
    simp only [memRead]
    rw [if_neg (by omega)]
    exact ih fun e he => h e (List.mem_cons_of_mem _ he)

/-- A read after a write (20_memory.md R72, R73): the written element holds the value, every other its old one. -/
@[simp] theorem memRead_memWrite {w : Nat} (m : Memory w) (hm : Memory.wf m) (a b : Nat) (v : BitVec w) :
    memRead (memWrite m a v) b = if b = a then v else memRead m b := by
  induction m with
  | nil =>
    simp only [memWrite]
    split
    · subst_vars; simp [memRead]
    · by_cases hb : b = a
      · subst hb; simp [memRead]
      · simp [memRead, hb, Ne.symm hb]
  | cons c rest ih =>
    obtain ⟨c1, c2⟩ := c
    have hlt := Memory.wf_lt hm
    simp only [memWrite]
    split
    · simp only [memRead, ih (Memory.wf_rest hm)]; split <;> split <;> first | rfl | omega
    · rename_i h1
      split
      · rename_i h2
        subst h2
        split
        · rename_i h3
          subst h3
          by_cases hb : b = c1
          · subst hb; simpa using memRead_eq_zero_of_lt rest b hlt
          · simp [memRead, hb, Ne.symm hb]
        · by_cases hb : b = c1
          · subst hb; simp [memRead]
          · simp [memRead, hb, Ne.symm hb]
      · rename_i h2
        have hz : memRead ((c1, c2) :: rest) a = 0#w :=
          memRead_eq_zero_of_lt _ a fun d hd => by
            rcases List.mem_cons.1 hd with rfl | hd
            · dsimp only; omega
            · have := hlt d hd; dsimp only at this; omega
        split
        · rename_i h3
          by_cases hb : b = a
          · subst hb; rw [hz, if_pos rfl, h3]
          · rw [if_neg hb]
        · by_cases hb : b = a
          · subst hb; simp [memRead]
          · rw [if_neg hb]; conv_lhs => rw [memRead, if_neg (Ne.symm hb)]

/-- What a write lists: its own address or an address listed before. -/
theorem mem_memWrite {w : Nat} (m : Memory w) (a : Nat) (v : BitVec w) (d : Nat × BitVec w)
    (h : d ∈ memWrite m a v) : (d.1 = a ∧ d.2 ≠ 0#w) ∨ d ∈ m := by
  induction m with
  | nil =>
    simp only [memWrite] at h
    split at h
    · exact absurd h List.not_mem_nil
    · rcases List.mem_singleton.1 h with rfl
      exact .inl ⟨rfl, ‹_›⟩
  | cons c rest ih =>
    obtain ⟨c1, c2⟩ := c
    simp only [memWrite] at h
    split at h
    · rcases List.mem_cons.1 h with rfl | h
      · exact .inr List.mem_cons_self
      · exact (ih h).imp id (List.mem_cons_of_mem _)
    · split at h <;> split at h
      · exact .inr (List.mem_cons_of_mem _ h)
      · rcases List.mem_cons.1 h with rfl | h
        · exact .inl ⟨rfl, ‹_›⟩
        · exact .inr (List.mem_cons_of_mem _ h)
      · exact .inr h
      · rcases List.mem_cons.1 h with rfl | h
        · exact .inl ⟨rfl, ‹_›⟩
        · exact .inr h

/-- Every write keeps the listed elements inside a space its address is inside. -/
theorem within_memWrite {w n : Nat} (m : Memory w) (a : Nat) (v : BitVec w) (ha : a < n)
    (hm : Memory.within n m) : Memory.within n (memWrite m a v) := by
  intro d hd
  rcases mem_memWrite m a v d hd with h | h
  · omega
  · exact hm d h

/-- Every write keeps the canonical form. -/
theorem wf_memWrite {w : Nat} (m : Memory w) (hm : Memory.wf m) (a : Nat) (v : BitVec w) :
    Memory.wf (memWrite m a v) := by
  refine ⟨?_, fun d hd => (mem_memWrite m a v d hd).elim (·.2) (hm.2 d)⟩
  induction m with
  | nil => simp only [memWrite]; split <;> simp
  | cons c rest ih =>
    obtain ⟨c1, c2⟩ := c
    have hrest : Memory.wf rest := ⟨hm.1.of_cons, fun d hd => hm.2 d (List.mem_cons_of_mem _ hd)⟩
    have hlt : ∀ d ∈ rest, c1 < d.1 := fun d hd => List.rel_of_pairwise_cons hm.1 hd
    simp only [memWrite]
    split
    · refine List.pairwise_cons.2 ⟨fun d hd => ?_, ih hrest⟩
      rcases mem_memWrite rest a v d hd with h | h
      · omega
      · exact hlt d h
    · split <;> split
      · exact hrest.1
      · exact List.pairwise_cons.2 ⟨fun d hd => by have := hlt d hd; simp only; omega, hrest.1⟩
      · exact hm.1
      · refine List.pairwise_cons.2 ⟨fun d hd => ?_, hm.1⟩
        rcases List.mem_cons.1 hd with rfl | hd
        · simp only; omega
        · have := hlt d hd; simp only; omega

/-- Two canonical memories that read the same everywhere are the same data. -/
theorem memory_ext {w : Nat} (m m' : Memory w) (hm : Memory.wf m) (hm' : Memory.wf m')
    (h : ∀ a, memRead m a = memRead m' a) : m = m' := by
  induction m generalizing m' with
  | nil =>
    cases m' with
    | nil => rfl
    | cons c rest =>
      have := h c.1
      simp only [memRead, if_true] at this
      exact absurd this.symm (hm'.2 c List.mem_cons_self)
  | cons c rest ih =>
    obtain ⟨c1, c2⟩ := c
    have hrest : Memory.wf rest := ⟨hm.1.of_cons, fun d hd => hm.2 d (List.mem_cons_of_mem _ hd)⟩
    have hlt : ∀ d ∈ rest, c1 < d.1 := fun d hd => List.rel_of_pairwise_cons hm.1 hd
    have hc : c2 ≠ 0#w := hm.2 (c1, c2) List.mem_cons_self
    cases m' with
    | nil => have := h c1; simp only [memRead, if_true] at this; exact absurd this hc
    | cons c' rest' =>
      obtain ⟨d1, d2⟩ := c'
      have hrest' : Memory.wf rest' := ⟨hm'.1.of_cons, fun d hd => hm'.2 d (List.mem_cons_of_mem _ hd)⟩
      have hlt' : ∀ d ∈ rest', d1 < d.1 := fun d hd => List.rel_of_pairwise_cons hm'.1 hd
      have hd : d2 ≠ 0#w := hm'.2 (d1, d2) List.mem_cons_self
      have h1 := h c1
      have h2 := h d1
      simp only [memRead, if_true] at h1 h2
      have hcd : c1 = d1 := by
        rcases lt_trichotomy c1 d1 with hl | he | hl
        · rw [if_neg (by omega), memRead_eq_zero_of_lt rest' c1 fun e he => by have := hlt' e he; omega] at h1
          exact absurd h1 hc
        · exact he
        · rw [if_neg (by omega), memRead_eq_zero_of_lt rest d1 fun e he => by have := hlt e he; omega] at h2
          exact absurd h2.symm hd
      subst hcd
      rw [if_pos rfl] at h1
      subst h1
      congr 1
      refine ih rest' hrest hrest' fun a => ?_
      by_cases ha : a = c1
      · subst ha
        rw [memRead_eq_zero_of_lt rest _ hlt, memRead_eq_zero_of_lt rest' _ hlt']
      · have := h a
        simpa only [memRead, if_neg (Ne.symm ha)] using this

/-- The memories right after reset are canonical and list nothing outside their spaces. -/
theorem reset_memories_ok (c : Config) :
    Memory.wf (State.resetWith c).src ∧ Memory.within c.srcWords (State.resetWith c).src ∧
      Memory.wf (State.resetWith c).dst ∧ Memory.within c.dstBytes (State.resetWith c).dst := by
  simp [State.resetWith, Memory.wf, Memory.within]

end Sys2Proof.Machine
end

