-- ==== Sys2Proof/Laws/Convert.lean ====
section
/-! SUPPORT. CONVERT: the value of an element, what the loop leaves in DST, and what `convertCore` can do. -/

namespace Sys2Proof.Machine

open Sys2Proof

/-- The value a CONVERT writes for a sample, where the spec states it: TABLE[x] for a table strategy, F of the latched window
for a direct one (42_lut_convert.md R170). -/
def statedValue (e : LutStrat) (x : Sample) (s : State) : Byte :=
  match e with
  | .directf | .directi => remapByte (sext32 s.win.curMin) (sext32 s.win.curMax) (x.toNat : Int)
  | .auto | .scalar | .vec | .gather | .bperm => (s.table[x.toNat]?).getD 0

/-- The table is full and the latched window is one, so that no element's value is free. -/
def ValuesStated (s : State) : Prop := s.table.length = 65536 ∧ sext32 s.win.curMin < sext32 s.win.curMax

/-- Where the spec states the value of an element, it is taken and no draw is made. -/
theorem displayValue_stated (e : LutStrat) (x : Sample) (s : State) (h : ValuesStated s) :
    displayValue e x s = (statedValue e x s, s) := by
  have hx : x.toNat < s.table.length := by rw [h.1]; exact x.isLt
  cases e <;> simp [displayValue, statedValue, lookupValue, directValue, h.2, List.getElem?_eq_getElem hx]

/-- One element: only DST and the count of draws can change, and the draws only where a value is free. -/
theorem displayValue_state (e : LutStrat) (x : Sample) (s : State) :
    (displayValue e x s).2 = { s with draws := (displayValue e x s).2.draws } := by
  cases e <;> simp only [displayValue, lookupValue, directValue, drawByte] <;> split <;> rfl

/-- Whatever the values are, the loop changes DST and the count of draws only. -/
theorem convertLoop_state (e : LutStrat) (n sa da : Nat) (s : State) :
    convertLoop e n sa da s =
      { s with dst := (convertLoop e n sa da s).dst, draws := (convertLoop e n sa da s).draws } := by
  induction n generalizing sa da s with
  | zero => rfl
  | succ n ih =>
    rw [convertLoop, ih]
    simp only [convertElement]
    rw [displayValue_state]

/-- The loop keeps the form of DST (20_memory.md R70). -/
theorem convertLoop_dst_ok (e : LutStrat) (n sa da lim : Nat) (s : State) (hd : da + n ≤ lim)
    (hw : Memory.wf s.dst) (hi : Memory.within lim s.dst) :
    Memory.wf (convertLoop e n sa da s).dst ∧ Memory.within lim (convertLoop e n sa da s).dst := by
  induction n generalizing sa da s with
  | zero => exact ⟨hw, hi⟩
  | succ n ih =>
    rw [convertLoop]
    have hs : (displayValue e (memRead s.src sa) s).2.dst = s.dst := by rw [displayValue_state]
    apply ih _ _ _ (by omega)
    · simp only [convertElement, hs]; exact wf_memWrite _ hw _ _
    · simp only [convertElement, hs]; exact within_memWrite _ _ _ (by omega) hi

/-- The loop, where the spec states every value: no draw is made and only DST changes; element `da + k` holds the value of
the sample at `sa + k`, every other element its old value (42_lut_convert.md R170, 20_memory.md R74). -/
theorem convertLoop_stated (e : LutStrat) (n sa da : Nat) (s : State) (h : ValuesStated s) (hw : Memory.wf s.dst) :
    convertLoop e n sa da s = { s with dst := (convertLoop e n sa da s).dst } ∧
    ∀ a : Nat, memRead (convertLoop e n sa da s).dst a =
      if da ≤ a ∧ a < da + n then statedValue e (memRead s.src (sa + (a - da))) s else memRead s.dst a := by
  induction n generalizing sa da s with
  | zero =>
    refine ⟨rfl, fun a => ?_⟩
    rw [if_neg (by omega)]
    rfl
  | succ n ih =>
    have hel : convertElement e sa da s =
        { s with dst := memWrite s.dst da (statedValue e (memRead s.src sa) s) } := by
      simp only [convertElement, displayValue_stated e _ s h]
    have ih' := ih (sa + 1) (da + 1) (convertElement e sa da s) (by rw [hel]; exact h)
      (by rw [hel]; exact wf_memWrite _ hw _ _)
    rw [convertLoop]
    refine ⟨?_, fun a => ?_⟩
    · rw [ih'.1, hel]
    · have hv : ∀ x, statedValue e x (convertElement e sa da s) = statedValue e x s := by
        intro x; rw [hel]; rfl
      have hsrc : (convertElement e sa da s).src = s.src := by rw [hel]
      have hdst : (convertElement e sa da s).dst = memWrite s.dst da (statedValue e (memRead s.src sa) s) := by
        rw [hel]
      rw [ih'.2 a, hv, hsrc, hdst, memRead_memWrite _ hw]
      by_cases ha : a = da
      · subst ha
        rw [if_neg (by omega), if_pos rfl, if_pos (by omega), Nat.sub_self, Nat.add_zero]
      · rw [if_neg ha]
        by_cases hin : da + 1 ≤ a ∧ a < da + 1 + n
        · rw [if_pos hin, if_pos (by omega)]
          congr 2
          omega
        · rw [if_neg hin, if_neg (by omega)]

/-- The bounds check of R170 step 3 is `SpansInside`. -/
theorem convertOutOfBounds_iff (s : State) : convertOutOfBounds s = false ↔ SpansInside s := by
  simp only [convertOutOfBounds, SpansInside, Bool.and_eq_false_iff, Bool.or_eq_false_iff, decide_eq_false_iff_not]
  simp only [zext32]
  omega

/-- Everything `convertCore` can do (42_lut_convert.md R170). -/
theorem convertCore_cases (st : LutStrat) (s : State) :
    (resolveConvert st s.cap = none ∧ convertCore st s = raise .capMismatch s) ∨
    (∃ e, resolveConvert st s.cap = some e ∧ s.status.tableValid = false ∧
      convertCore st s = raise .tableNotBuilt s) ∨
    (∃ e, resolveConvert st s.cap = some e ∧ s.status.tableValid = true ∧ ¬ SpansInside s ∧
      convertCore st s = raise .outOfBounds s) ∨
    (∃ e, resolveConvert st s.cap = some e ∧ s.status.tableValid = true ∧ SpansInside s ∧
      convertCore st s = succeed (lutCode e)
        (convertLoop e s.ops.length.toNat s.ops.srcBase.toNat s.ops.dstBase.toNat s)) := by
  cases h : resolveConvert st s.cap with
  | none => exact .inl ⟨rfl, by simp [convertCore, h]⟩
  | some e =>
    cases hv : s.status.tableValid with
    | false => exact .inr (.inl ⟨e, rfl, rfl, by simp [convertCore, h, hv]⟩)
    | true =>
      by_cases hb : SpansInside s
      · exact .inr (.inr (.inr ⟨e, rfl, rfl, hb, by
          simp [convertCore, h, hv, (convertOutOfBounds_iff s).2 hb]⟩))
      · refine .inr (.inr (.inl ⟨e, rfl, rfl, hb, ?_⟩))
        have : convertOutOfBounds s = true := by
          rw [← Bool.not_eq_false]; exact fun hc => hb ((convertOutOfBounds_iff s).1 hc)
        simp [convertCore, h, hv, this]

end Sys2Proof.Machine
end

