-- ==== Sys2Proof/Laws/Commands.lean ====
section
/-! SUPPORT. Each command's meaning as one gated core: the strategy it names, when that runs, and the code it leaves. -/

namespace Sys2Proof.Machine

open Sys2Proof

/-- How a command's strategy is resolved: unsupported and refused, or supported and run as `e`, whose code is `k`. -/
abbrev Resolves {α : Type} (supported : Bool) (r : Option α) (code : α → BitVec 4) (k : BitVec 4) : Prop :=
  (supported = false ∧ r = none) ∨ (supported = true ∧ ∃ e, r = some e ∧ code e = k)

/-- The four CREATE commands (41_lut_create.md R157 to R160). -/
theorem exec_create (i : Instr) (hi : i ∈ createCommands) :
    ∃ st, (∀ s, exec i s = runGated (createCore st) s) ∧
      ∀ c, Resolves (strategySupported i c) (resolveCreate st c) lutCode (executedStrategy i c) := by
  simp only [createCommands, List.mem_cons, List.not_mem_nil, or_false] at hi
  rcases hi with rfl | rfl | rfl | rfl
  · exact ⟨.auto, fun _ => rfl, fun ⟨m, a, b⟩ => by revert m a b; decide⟩
  · exact ⟨.scalar, fun _ => rfl, fun ⟨m, a, b⟩ => by revert m a b; decide⟩
  · exact ⟨.vec, fun _ => rfl, fun ⟨m, a, b⟩ => by revert m a b; decide⟩
  · exact ⟨.directf, fun _ => rfl, fun ⟨m, a, b⟩ => by revert m a b; decide⟩

/-- The seven CONVERT commands (42_lut_convert.md R174 to R180); the direct strategies run for CONVERT.DIRECTF and
CONVERT.DIRECTI only. -/
theorem exec_convert (i : Instr) (hi : i ∈ convertCommands) :
    ∃ st, (∀ s, exec i s = runGated (convertCore st) s) ∧
      (∀ c, Resolves (strategySupported i c) (resolveConvert st c) lutCode (executedStrategy i c)) ∧
      ∀ c e, resolveConvert st c = some e → ((e = .directf ∨ e = .directi) ↔ (i = .convertDirectf ∨ i = .convertDirecti)) := by
  simp only [convertCommands, List.mem_cons, List.not_mem_nil, or_false] at hi
  rcases hi with rfl | rfl | rfl | rfl | rfl | rfl | rfl
  · exact ⟨.auto, fun _ => rfl, fun ⟨m, a, b⟩ => by revert m a b; decide,
      fun ⟨m, a, b⟩ e => by revert m a b; cases e <;> decide⟩
  · exact ⟨.scalar, fun _ => rfl, fun ⟨m, a, b⟩ => by revert m a b; decide,
      fun ⟨m, a, b⟩ e => by revert m a b; cases e <;> decide⟩
  · exact ⟨.vec, fun _ => rfl, fun ⟨m, a, b⟩ => by revert m a b; decide,
      fun ⟨m, a, b⟩ e => by revert m a b; cases e <;> decide⟩
  · exact ⟨.gather, fun _ => rfl, fun ⟨m, a, b⟩ => by revert m a b; decide,
      fun ⟨m, a, b⟩ e => by revert m a b; cases e <;> decide⟩
  · exact ⟨.bperm, fun _ => rfl, fun ⟨m, a, b⟩ => by revert m a b; decide,
      fun ⟨m, a, b⟩ e => by revert m a b; cases e <;> decide⟩
  · exact ⟨.directf, fun _ => rfl, fun ⟨m, a, b⟩ => by revert m a b; decide,
      fun ⟨m, a, b⟩ e => by revert m a b; cases e <;> decide⟩
  · exact ⟨.directi, fun _ => rfl, fun ⟨m, a, b⟩ => by revert m a b; decide,
      fun ⟨m, a, b⟩ e => by revert m a b; cases e <;> decide⟩

/-- The five CALCV commands (43_vhadd.md R201 to R205). -/
theorem exec_calcv (i : Instr) (hi : i ∈ calcvCommands) :
    ∃ st, (∀ s, exec i s = runGated (calcCore .calcv st) s) ∧
      ∀ c, Resolves (strategySupported i c) (resolveVh .calcv st c) vhCode (executedStrategy i c) := by
  simp only [calcvCommands, List.mem_cons, List.not_mem_nil, or_false] at hi
  rcases hi with rfl | rfl | rfl | rfl | rfl
  · exact ⟨.auto, fun _ => rfl, fun ⟨m, a, b⟩ => by revert m a b; decide⟩
  · exact ⟨.naive, fun _ => rfl, fun ⟨m, a, b⟩ => by revert m a b; decide⟩
  · exact ⟨.avx2, fun _ => rfl, fun ⟨m, a, b⟩ => by revert m a b; decide⟩
  · exact ⟨.avx2v, fun _ => rfl, fun ⟨m, a, b⟩ => by revert m a b; decide⟩
  · exact ⟨.avx512, fun _ => rfl, fun ⟨m, a, b⟩ => by revert m a b; decide⟩

/-- The five CALCH commands (43_vhadd.md R206 to R210). -/
theorem exec_calch (i : Instr) (hi : i ∈ calchCommands) :
    ∃ st, (∀ s, exec i s = runGated (calcCore .calch st) s) ∧
      ∀ c, Resolves (strategySupported i c) (resolveVh .calch st c) vhCode (executedStrategy i c) := by
  simp only [calchCommands, List.mem_cons, List.not_mem_nil, or_false] at hi
  rcases hi with rfl | rfl | rfl | rfl | rfl
  · exact ⟨.auto, fun _ => rfl, fun ⟨m, a, b⟩ => by revert m a b; decide⟩
  · exact ⟨.naive, fun _ => rfl, fun ⟨m, a, b⟩ => by revert m a b; decide⟩
  · exact ⟨.avx2, fun _ => rfl, fun ⟨m, a, b⟩ => by revert m a b; decide⟩
  · exact ⟨.avx2v, fun _ => rfl, fun ⟨m, a, b⟩ => by revert m a b; decide⟩
  · exact ⟨.avx512, fun _ => rfl, fun ⟨m, a, b⟩ => by revert m a b; decide⟩

/-- The five CALCVH commands (43_vhadd.md R211 to R215). -/
theorem exec_calcvh (i : Instr) (hi : i ∈ calcvhCommands) :
    ∃ st, (∀ s, exec i s = runGated (calcCore .calcvh st) s) ∧
      ∀ c, Resolves (strategySupported i c) (resolveVh .calcvh st c) vhCode (executedStrategy i c) := by
  simp only [calcvhCommands, List.mem_cons, List.not_mem_nil, or_false] at hi
  rcases hi with rfl | rfl | rfl | rfl | rfl
  · exact ⟨.auto, fun _ => rfl, fun ⟨m, a, b⟩ => by revert m a b; decide⟩
  · exact ⟨.naive, fun _ => rfl, fun ⟨m, a, b⟩ => by revert m a b; decide⟩
  · exact ⟨.avx2, fun _ => rfl, fun ⟨m, a, b⟩ => by revert m a b; decide⟩
  · exact ⟨.avx2v, fun _ => rfl, fun ⟨m, a, b⟩ => by revert m a b; decide⟩
  · exact ⟨.avx512, fun _ => rfl, fun ⟨m, a, b⟩ => by revert m a b; decide⟩

/-- Every command is a gated body, and every body leaves the parameters, CAP, the operand registers, SRC, the host's further
transactions and the last reply alone (10_state.md R21, 20_memory.md R71). -/
theorem exec_command (i : Instr) (hi : i ∈ allCommands) :
    ∃ body : State → State, (∀ s, exec i s = runGated body s) ∧
      ∀ s, (body s).cfg = s.cfg ∧ (body s).cap = s.cap ∧ (body s).ops = s.ops ∧ (body s).src = s.src ∧
        (body s).pending = s.pending ∧ (body s).reply = s.reply := by
  have hcreate : ∀ (st : LutStrat) (s : State), (createCore st s).cfg = s.cfg ∧ (createCore st s).cap = s.cap ∧
      (createCore st s).ops = s.ops ∧ (createCore st s).src = s.src ∧ (createCore st s).pending = s.pending ∧
      (createCore st s).reply = s.reply := by
    intro st s
    rcases createCore_cases st s with ⟨-, h⟩ | ⟨e, -, -, h⟩ | ⟨e, -, -, h⟩ <;> rw [h] <;> simp
  have hconvert : ∀ (st : LutStrat) (s : State), (convertCore st s).cfg = s.cfg ∧ (convertCore st s).cap = s.cap ∧
      (convertCore st s).ops = s.ops ∧ (convertCore st s).src = s.src ∧ (convertCore st s).pending = s.pending ∧
      (convertCore st s).reply = s.reply := by
    intro st s
    rcases convertCore_cases st s with ⟨-, h⟩ | ⟨e, -, -, h⟩ | ⟨e, -, -, -, h⟩ | ⟨e, -, -, -, h⟩ <;> rw [h]
    · simp
    · simp
    · simp
    · rw [convertLoop_state]; simp
  have hcalc : ∀ (op : VhOp) (st : VhStrat) (s : State), (calcCore op st s).cfg = s.cfg ∧
      (calcCore op st s).cap = s.cap ∧ (calcCore op st s).ops = s.ops ∧ (calcCore op st s).src = s.src ∧
      (calcCore op st s).pending = s.pending ∧ (calcCore op st s).reply = s.reply := by
    intro op st s
    rcases calcCore_cases op st s with ⟨-, h⟩ | ⟨e, -, -, h⟩ | ⟨e, -, -, -, h⟩ | ⟨e, -, -, -, h⟩ <;> rw [h] <;> simp
  simp only [allCommands, List.mem_append] at hi
  rcases hi with ((((h | h) | h) | h) | h) | h
  · obtain ⟨st, h, -⟩ := exec_create i h; exact ⟨_, h, hcreate st⟩
  · obtain ⟨st, h, -⟩ := exec_convert i h; exact ⟨_, h, hconvert st⟩
  · obtain ⟨st, h, -⟩ := exec_calcv i h; exact ⟨_, h, hcalc _ st⟩
  · obtain ⟨st, h, -⟩ := exec_calch i h; exact ⟨_, h, hcalc _ st⟩
  · obtain ⟨st, h, -⟩ := exec_calcvh i h; exact ⟨_, h, hcalc _ st⟩
  · rw [List.mem_singleton] at h; subst h; exact ⟨acknowledge, fun _ => rfl, fun s => by simp⟩

end Sys2Proof.Machine
end

