-- ==== Sys2Proof/Laws/PerInstr.lean ====
section
/-! SUPPORT. The family CommandWord: a statement about each instruction as it is written, one lemma a constructor. -/

namespace Sys2Proof.Laws.CommandWord

open Sys2Proof

/-- The command word of an instruction, if it has one, fits the fields of 30_encoding.md R101: bits 31:8 are zero, OP is
1 to 6 and STRAT at most 6, and STRAT is 0 for CLRERR. -/
def Statement (i : Instr) : Prop :=
  ∀ w, encode i = some w →
    zeroField w = 0#24 ∧ 1 ≤ (opField w).toNat ∧ (opField w).toNat ≤ 6 ∧ (stratField w).toNat ≤ 6 ∧
      ((opField w).toNat = 6 → (stratField w).toNat = 0)

/-- A composed word has the fields it was composed of. -/
theorem of_commandWord (i : Instr) (op strat : BitVec 4) (h : encode i = some (commandWord op strat))
    (hop : 1 ≤ op.toNat ∧ op.toNat ≤ 6 ∧ strat.toNat ≤ 6 ∧ (op.toNat = 6 → strat.toNat = 0)) : Statement i := by
  intro w hw
  rw [h] at hw
  obtain rfl := Option.some.inj hw
  have h1 := op.isLt
  have h2 := strat.isLt
  rw [Machine.zeroField_eq_zero_iff, Machine.opField_toNat, Machine.stratField_toNat, Machine.commandWord_toNat]
  omega

/-- A host transaction has no command word. -/
theorem of_none (i : Instr) (h : encode i = none) : Statement i := by
  intro w hw
  rw [h] at hw
  cases hw

theorem createAuto : Statement .createAuto := of_commandWord _ 0x1 0x0 rfl (by decide)
theorem createScalar : Statement .createScalar := of_commandWord _ 0x1 0x1 rfl (by decide)
theorem createVec : Statement .createVec := of_commandWord _ 0x1 0x2 rfl (by decide)
theorem createDirectf : Statement .createDirectf := of_commandWord _ 0x1 0x5 rfl (by decide)
theorem convertAuto : Statement .convertAuto := of_commandWord _ 0x2 0x0 rfl (by decide)
theorem convertScalar : Statement .convertScalar := of_commandWord _ 0x2 0x1 rfl (by decide)
theorem convertVec : Statement .convertVec := of_commandWord _ 0x2 0x2 rfl (by decide)
theorem convertGather : Statement .convertGather := of_commandWord _ 0x2 0x3 rfl (by decide)
theorem convertBperm : Statement .convertBperm := of_commandWord _ 0x2 0x4 rfl (by decide)
theorem convertDirectf : Statement .convertDirectf := of_commandWord _ 0x2 0x5 rfl (by decide)
theorem convertDirecti : Statement .convertDirecti := of_commandWord _ 0x2 0x6 rfl (by decide)
theorem calcvAuto : Statement .calcvAuto := of_commandWord _ 0x3 0x0 rfl (by decide)
theorem calcvNaive : Statement .calcvNaive := of_commandWord _ 0x3 0x1 rfl (by decide)
theorem calcvAvx2 : Statement .calcvAvx2 := of_commandWord _ 0x3 0x2 rfl (by decide)
theorem calcvAvx2v : Statement .calcvAvx2v := of_commandWord _ 0x3 0x3 rfl (by decide)
theorem calcvAvx512 : Statement .calcvAvx512 := of_commandWord _ 0x3 0x4 rfl (by decide)
theorem calchAuto : Statement .calchAuto := of_commandWord _ 0x4 0x0 rfl (by decide)
theorem calchNaive : Statement .calchNaive := of_commandWord _ 0x4 0x1 rfl (by decide)
theorem calchAvx2 : Statement .calchAvx2 := of_commandWord _ 0x4 0x2 rfl (by decide)
theorem calchAvx2v : Statement .calchAvx2v := of_commandWord _ 0x4 0x3 rfl (by decide)
theorem calchAvx512 : Statement .calchAvx512 := of_commandWord _ 0x4 0x4 rfl (by decide)
theorem calcvhAuto : Statement .calcvhAuto := of_commandWord _ 0x5 0x0 rfl (by decide)
theorem calcvhNaive : Statement .calcvhNaive := of_commandWord _ 0x5 0x1 rfl (by decide)
theorem calcvhAvx2 : Statement .calcvhAvx2 := of_commandWord _ 0x5 0x2 rfl (by decide)
theorem calcvhAvx2v : Statement .calcvhAvx2v := of_commandWord _ 0x5 0x3 rfl (by decide)
theorem calcvhAvx512 : Statement .calcvhAvx512 := of_commandWord _ 0x5 0x4 rfl (by decide)
theorem clrerr : Statement .clrerr := of_commandWord _ 0x6 0x0 rfl (by decide)
theorem regw (off : BitVec 12) (data : Word) : Statement (.regw off data) := of_none _ rfl
theorem regr (off : BitVec 12) : Statement (.regr off) := of_none _ rfl
theorem srcw (addr : Nat) (data : Sample) : Statement (.srcw addr data) := of_none _ rfl
theorem srcr (addr : Nat) : Statement (.srcr addr) := of_none _ rfl
theorem dstw (addr : Nat) (data : Byte) : Statement (.dstw addr data) := of_none _ rfl
theorem dstr (addr : Nat) : Statement (.dstr addr) := of_none _ rfl
theorem reset : Statement .reset := of_none _ rfl

end Sys2Proof.Laws.CommandWord
end

