-- ==== Sys2Proof/Laws/Registers.lean ====
section
/-! SUPPORT. The register map: offsets and registers, and what a register read or write can change. -/

namespace Sys2Proof.Machine

open Sys2Proof

/-- The register at a register's offset is that register (10_state.md R23). -/
@[simp] theorem registerAt_offsetOf (r : Register) : registerAt (offsetOf r) = some r := by cases r <;> rfl

/-- The offset of a register is a multiple of 4 (10_state.md R23). -/
@[simp] theorem offsetOk_offsetOf (r : Register) : offsetOk (offsetOf r) = true := by cases r <;> rfl

/-- Every offset from 0x70 on is reserved (10_state.md R36). -/
theorem registerAt_reserved (off : BitVec 12) (h : 0x70 ≤ off.toNat) : registerAt off = none := by
  unfold registerAt
  split <;> first | rfl | omega

/-- A register read changes at most the count of draws (40_host_transactions.md R132). -/
theorem readRegister_state (r : Register) (s : State) :
    (readRegister r s).2 = { s with draws := (readRegister r s).2.draws } := by
  cases r <;>
    first
      | rfl
      | (simp only [readRegister, readTableByte, readScratchSample, drawByte, drawSample]
         split <;> (try split) <;> rfl)

/-- A read of any offset changes at most the count of draws. -/
theorem readOffset_state (off : BitVec 12) (s : State) :
    (readOffset off s).2 = { s with draws := (readOffset off s).2.draws } := by
  unfold readOffset
  split
  · exact readRegister_state _ s
  · rfl

/-- A write of any offset but CMD changes at most the operand registers (40_host_transactions.md R131). -/
theorem writeOffset_state (off : BitVec 12) (data : Word) (s : State) :
    writeOffset off data s = { s with ops := (writeOffset off data s).ops } := by
  unfold writeOffset
  split <;> rfl

end Sys2Proof.Machine
end

