-- ==== Sys2Proof/Laws/Step.lean ====
section
/-! SUPPORT. Everything an instruction can do, said once (`exec_effect`), and what a step is (`step_cases`): an invariant is
proved over the effects, not by unfolding the machine. -/

namespace Sys2Proof.Machine

open Sys2Proof

/-- The instruction is one of these commands, or the REGW to CMD of its word (40_host_transactions.md R131). -/
abbrev Carries (cs : List Instr) (i : Instr) : Prop :=
  ∃ j ∈ cs, i = j ∨ ∃ w, i = .regw cmdOffset w ∧ decode w = .ok j

/-- A REGW to CMD of a word that is no command. -/
abbrev CarriesIllegalWord (i : Instr) : Prop := ∃ w e, i = .regw cmdOffset w ∧ decode w = .error e

/-- The state `t` the instruction `i` can leave from the state `s`. -/
inductive Effect (i : Instr) (s : State) : State → Prop where
  /-- A command in the FAULT state (10_state.md R40). -/
  | ignored (hi : Carries allCommands i ∨ CarriesIllegalWord i) (hf : InFault s) : Effect i s (answer .nothing s)
  /-- A command that ended with an error (60_exceptions.md R246, R247). -/
  | error (hi : Carries allCommands i ∨ CarriesIllegalWord i) (c : CompletionCode) (hop : Operating s) (hc : c ≠ .ok) :
      Effect i s (answer .nothing (raise c s))
  /-- A successful CREATE. -/
  | created (hi : Carries createCommands i) (k : BitVec 4) (hop : Operating s) (hw : WindowOk s) :
      Effect i s (answer .nothing (succeed k (buildTable s)))
  /-- A successful CONVERT. -/
  | converted (hi : Carries convertCommands i) (e : LutStrat) (k : BitVec 4) (hop : Operating s)
      (hv : s.status.tableValid = true) (hb : SpansInside s) :
      Effect i s (answer .nothing
        (succeed k (convertLoop e s.ops.length.toNat s.ops.srcBase.toNat s.ops.dstBase.toNat s)))
  /-- A successful Calc. -/
  | calculated (hi : Carries (calcvCommands ++ calchCommands ++ calcvhCommands) i) (op : VhOp) (k : BitVec 4)
      (hop : Operating s) (hx : ExtentsOk s) (hb : WindowsInside s) :
      Effect i s (answer .nothing (succeed k (storeResults op s)))
  /-- CLRERR. -/
  | acknowledged (hi : Carries [.clrerr] i) (hop : Operating s) : Effect i s (answer .nothing (acknowledge s))
  /-- A REGW to a register other than CMD. -/
  | wroteRegister (off : BitVec 12) (data : Word) (hi : i = .regw off data) (hc : off ≠ cmdOffset) :
      Effect i s (answer .nothing (writeOffset off data s))
  /-- REGR. -/
  | readRegister (off : BitVec 12) (hi : i = .regr off) :
      Effect i s (answer (.word (readOffset off s).1) (readOffset off s).2)
  /-- SRCW. -/
  | wroteSource (a : Nat) (v : Sample) (hi : i = .srcw a v) (ha : a < s.cfg.srcWords) :
      Effect i s (answer .nothing { s with src := memWrite s.src a v })
  /-- SRCR. -/
  | readSource (a : Nat) (hi : i = .srcr a) (ha : a < s.cfg.srcWords) :
      Effect i s (answer (.sample (memRead s.src a)) s)
  /-- DSTW. -/
  | wroteDestination (a : Nat) (v : Byte) (hi : i = .dstw a v) (ha : a < s.cfg.dstBytes) :
      Effect i s (answer .nothing { s with dst := memWrite s.dst a v })
  /-- DSTR. -/
  | readDestination (a : Nat) (hi : i = .dstr a) (ha : a < s.cfg.dstBytes) :
      Effect i s (answer (.byte (memRead s.dst a)) s)
  /-- RESET. -/
  | wasReset (hi : i = .reset) : Effect i s (answer .nothing (resetCore s))

/-- What a command leaves is one of the effects, whether it is issued as itself or carried by a REGW to CMD. -/
theorem exec_command_effect {i j : Instr} (hj : j ∈ allCommands)
    (hi : i = j ∨ ∃ w, i = .regw cmdOffset w ∧ decode w = .ok j) {s t : State} (h : exec j s = .next t) :
    Effect i s t := by
  have carries : ∀ cs : List Instr, j ∈ cs → Carries cs i := fun cs hc => ⟨j, hc, hi⟩
  have gated : ∀ body : State → State, (∀ s, exec j s = runGated body s) →
      (Operating s → Effect i s (answer .nothing (body s))) → Effect i s t := by
    intro body hb he
    rw [hb] at h
    rcases runGated_cases h with ⟨hf, rfl⟩ | ⟨hop, rfl⟩
    · exact .ignored (.inl (carries _ hj)) hf
    · exact he hop
  have failed : ∀ c : CompletionCode, c ≠ .ok → Operating s → Effect i s (answer .nothing (raise c s)) :=
    fun c hc hop => .error (.inl (carries _ hj)) c hop hc
  have calc_effect : ∀ op st, j ∈ calcvCommands ++ calchCommands ++ calcvhCommands →
      (∀ s, exec j s = runGated (calcCore op st) s) → Effect i s t := by
    intro op st hm hb
    refine gated _ hb fun hop => ?_
    rcases calcCore_cases op st s with ⟨-, hc⟩ | ⟨e, -, -, hc⟩ | ⟨e, -, -, -, hc⟩ | ⟨e, -, hx, hw, hc⟩ <;> rw [hc]
    · exact failed _ (by decide) hop
    · exact failed _ (by decide) hop
    · exact failed _ (by decide) hop
    · exact .calculated (carries _ hm) op _ hop hx hw
  have hm := hj
  simp only [allCommands, List.mem_append] at hm
  rcases hm with ((((hm | hm) | hm) | hm) | hm) | hm
  · obtain ⟨st, hb, -⟩ := exec_create j hm
    refine gated _ hb fun hop => ?_
    rcases createCore_cases st s with ⟨-, hc⟩ | ⟨e, -, -, hc⟩ | ⟨e, -, hw, hc⟩ <;> rw [hc]
    · exact failed _ (by decide) hop
    · exact failed _ (by decide) hop
    · exact .created (carries _ hm) _ hop hw
  · obtain ⟨st, hb, -⟩ := exec_convert j hm
    refine gated _ hb fun hop => ?_
    rcases convertCore_cases st s with ⟨-, hc⟩ | ⟨e, -, -, hc⟩ | ⟨e, -, -, -, hc⟩ | ⟨e, -, hv, hw, hc⟩ <;> rw [hc]
    · exact failed _ (by decide) hop
    · exact failed _ (by decide) hop
    · exact failed _ (by decide) hop
    · exact .converted (carries _ hm) e _ hop hv hw
  · obtain ⟨st, hb, -⟩ := exec_calcv j hm; exact calc_effect _ _ (List.mem_append_left _ (List.mem_append_left _ hm)) hb
  · obtain ⟨st, hb, -⟩ := exec_calch j hm; exact calc_effect _ _ (List.mem_append_left _ (List.mem_append_right _ hm)) hb
  · obtain ⟨st, hb, -⟩ := exec_calcvh j hm; exact calc_effect _ _ (List.mem_append_right _ hm) hb
  · have hc := List.mem_singleton.1 hm
    exact gated acknowledge (fun _ => by rw [hc]; rfl) (.acknowledged (carries _ hm))

/-- A word written to CMD is the command it decodes to, or an illegal word (40_host_transactions.md R131,
60_exceptions.md R244). -/
theorem runCommandWord_cases (w : Word) (s : State) :
    (∃ i ∈ allCommands, decode w = .ok i ∧ runCommandWord w s = exec i s) ∨
    (∃ e, decode w = .error e ∧ runCommandWord w s = runGated (raise .illegalCmd) s) := by
  cases h : decode w with
  | error e => exact .inr ⟨e, rfl, by simp only [runCommandWord, h]⟩
  | ok i =>
    have hi := decode_isCommand w i h
    refine .inl ⟨i, hi, rfl, ?_⟩
    simp only [runCommandWord, h]
    revert hi
    cases i <;> first | exact fun _ => rfl | (intro hi; exact absurd hi (by simp [allCommands]))

/-- What any instruction leaves is one of the effects. -/
theorem exec_effect {i : Instr} {s t : State} (h : exec i s = .next t) : Effect i s t := by
  by_cases hi : i ∈ allCommands
  · exact exec_command_effect hi (.inl rfl) h
  · cases i
    case regw off data =>
      simp only [exec, execRegw] at h
      split at h
      · split at h
        · rename_i ho
          subst ho
          rcases runCommandWord_cases data s with ⟨j, hj, hd, he⟩ | ⟨e, hd, he⟩ <;> rw [he] at h
          · exact exec_command_effect hj (.inr ⟨data, rfl, hd⟩) h
          · rcases runGated_cases h with ⟨hf, rfl⟩ | ⟨hop, rfl⟩
            · exact .ignored (.inr ⟨data, e, rfl, hd⟩) hf
            · exact .error (.inr ⟨data, e, rfl, hd⟩) _ hop (by decide)
        · cases h; exact .wroteRegister off data rfl ‹_›
      · cases h
    case regr off =>
      simp only [exec, execRegr] at h
      split at h
      · cases h; exact .readRegister off rfl
      · cases h
    case srcw a v =>
      simp only [exec, execSrcw] at h
      split at h
      · cases h; exact .wroteSource a v rfl ‹_›
      · cases h
    case srcr a =>
      simp only [exec, execSrcr] at h
      split at h
      · cases h; exact .readSource a rfl ‹_›
      · cases h
    case dstw a v =>
      simp only [exec, execDstw] at h
      split at h
      · cases h; exact .wroteDestination a v rfl ‹_›
      · cases h
    case dstr a =>
      simp only [exec, execDstr] at h
      split at h
      · cases h; exact .readDestination a rfl ‹_›
      · cases h
    case reset => cases h; exact .wasReset rfl
    all_goals exact absurd (by simp [allCommands]) hi

/-- A step leaves the state alone when nothing is pending, and else executes the next transaction
(40_host_transactions.md R130). -/
theorem step_cases {s t : State} (h : step s = .next t) :
    (s.pending = [] ∧ t = s) ∨
    ∃ tr rest, s.pending = tr :: rest ∧ exec (decodeTransaction tr) { s with pending := rest } = .next t := by
  cases hp : s.pending with
  | nil => simp only [step, hp] at h; exact .inl ⟨rfl, (Host.Outcome.next.inj h).symm⟩
  | cons tr rest => simp only [step, hp] at h; exact .inr ⟨tr, rest, rfl, h⟩

end Sys2Proof.Machine
end

