-- ==== Sys2Proof/Tests/Slice0.lean ====
section
/-! SUPPORT. Tests, each of one step on a small state, with the expected values of 95_test_vectors.md (named by its V
number) or written out by hand from the rule named; and for every obligation with hypotheses a witness that meets
them. -/

namespace Sys2Proof.Tests

open Sys2Proof Sys2Proof.Machine

-- One theorem at a time: checked side by side, the kernel evaluations below take a thread and a stack each.
set_option Elab.async false

/-! ## Small states -/

/-- An instance of the extents of 95_test_vectors.md P1 to P4 with the capabilities CAP_BYTE, CAP_ADV, CAP_MID. -/
def parameters (byte adv mid : Bool) : Config :=
  { Config.reference with capByte := byte, capAdv := adv, capMid := mid }

/-- The state after reset with CAP = {byte, adv, mid}. -/
def fresh (byte adv mid : Bool) : State := State.resetWith (parameters byte adv mid)

/-- WIN_MIN and WIN_MAX written. -/
def withWindow (mn mx : Word) (s : State) : State := { s with ops := { s.ops with winMin := mn, winMax := mx } }

/-- SRC_BASE, DST_BASE, LENGTH written. -/
def withSpan (sb db n : Word) (s : State) : State :=
  { s with ops := { s.ops with srcBase := sb, dstBase := db, length := n } }

/-- OFFSET_X, OFFSET_Y, HEXT, VEXT, VH_SIZE written. -/
def withGeometry (ox oy hx vx size : Word) (s : State) : State :=
  { s with ops := { s.ops with offsetX := ox, offsetY := oy, hext := hx, vext := vx, vhSize := size } }

/-- A table of the window (mn, mx) built by CREATE.SCALAR. -/
def withTable (mn mx : Word) (s : State) : State :=
  { withWindow mn mx s with
    table := remapTable (sext32 mn) (sext32 mx)
    win := { curMin := mn, curMax := mx }
    status := { s.status with tableValid := true, lastStrat := 1 } }

/-- SRC[0..11] = 1, 2, ..., 12, image A of 95_test_vectors.md §2.5. -/
def imageA : Memory 16 :=
  [(0, 1), (1, 2), (2, 3), (3, 4), (4, 5), (5, 6), (6, 7), (7, 8), (8, 9), (9, 10), (10, 11), (11, 12)]

/-- Image B of V55. -/
def imageB : Memory 16 :=
  [(0, 65535), (1, 1), (2, 2), (3, 3), (4, 65535), (5, 4), (6, 5), (7, 6), (8, 3), (9, 7), (10, 8), (11, 9)]

/-- The first five samples of V40. -/
def samples : Memory 16 := [(1, 4), (2, 1020), (3, 1021), (4, 2)]

/-- DST[0..7] = 0xEE, as in V40. -/
def poison : Memory 8 :=
  [(0, 0xEE), (1, 0xEE), (2, 0xEE), (3, 0xEE), (4, 0xEE), (5, 0xEE), (6, 0xEE), (7, 0xEE)]

/-- The start of V42: the table (0, 1020), the samples and the poison, every capability, LENGTH = 5. -/
def convertStart : State :=
  { withSpan 0 0 5 (withTable 0 1020 (fresh true true true)) with src := samples, dst := poison }

/-- The start of V53: image A, the geometry (0, 0, 2, 2; 12), CAP = 0b011. -/
def calcStart : State := { withGeometry 0 0 2 2 12 (fresh false true true) with src := imageA }

/-- A core in the FAULT state, as after V62's CONVERT.BPERM. -/
def faulted : State :=
  { fresh false false true with
    status := { tableValid := false, fault := true, errSticky := false, lastCode := .capMismatch, lastStrat := 2 } }

/-- What an instruction leaves, if it answers a next state. -/
def after (i : Instr) (s : State) : Option State :=
  match exec i s with
  | .next t => some t
  | .fault _ => none
  | .refused _ => none

/-- What a step leaves, if it answers a next state. -/
def stepped (s : State) : Option State :=
  match step s with
  | .next t => some t
  | .fault _ => none
  | .refused _ => none

/-- STATUS after an instruction. -/
def statusAfter (i : Instr) (s : State) : Option Word := (after i s).map fun t => statusWord t.status

/-- The word is no command. -/
def isIllegal (w : Word) : Bool :=
  match decode w with
  | .ok _ => false
  | .error _ => true

/-- What the transaction returned. -/
def replyOf (i : Instr) (s : State) : Option Reply := (after i s).map fun t => t.reply

/-! ## Decoding: every command by its written-out word (30_encoding.md R106), and the words of V27 and V60 -/

theorem test_decode_create :
    decode 0b00000000000000000000000000000001 = .ok .createAuto ∧
    decode 0b00000000000000000000000000010001 = .ok .createScalar ∧
    decode 0b00000000000000000000000000100001 = .ok .createVec ∧
    decode 0b00000000000000000000000001010001 = .ok .createDirectf := by decide

theorem test_decode_convert :
    decode 0b00000000000000000000000000000010 = .ok .convertAuto ∧
    decode 0b00000000000000000000000000010010 = .ok .convertScalar ∧
    decode 0b00000000000000000000000000100010 = .ok .convertVec ∧
    decode 0b00000000000000000000000000110010 = .ok .convertGather ∧
    decode 0b00000000000000000000000001000010 = .ok .convertBperm ∧
    decode 0b00000000000000000000000001010010 = .ok .convertDirectf ∧
    decode 0b00000000000000000000000001100010 = .ok .convertDirecti := by decide

theorem test_decode_calcv :
    decode 0b00000000000000000000000000000011 = .ok .calcvAuto ∧
    decode 0b00000000000000000000000000010011 = .ok .calcvNaive ∧
    decode 0b00000000000000000000000000100011 = .ok .calcvAvx2 ∧
    decode 0b00000000000000000000000000110011 = .ok .calcvAvx2v ∧
    decode 0b00000000000000000000000001000011 = .ok .calcvAvx512 := by decide

theorem test_decode_calch :
    decode 0b00000000000000000000000000000100 = .ok .calchAuto ∧
    decode 0b00000000000000000000000000010100 = .ok .calchNaive ∧
    decode 0b00000000000000000000000000100100 = .ok .calchAvx2 ∧
    decode 0b00000000000000000000000000110100 = .ok .calchAvx2v ∧
    decode 0b00000000000000000000000001000100 = .ok .calchAvx512 := by decide

theorem test_decode_calcvh :
    decode 0b00000000000000000000000000000101 = .ok .calcvhAuto ∧
    decode 0b00000000000000000000000000010101 = .ok .calcvhNaive ∧
    decode 0b00000000000000000000000000100101 = .ok .calcvhAvx2 ∧
    decode 0b00000000000000000000000000110101 = .ok .calcvhAvx2v ∧
    decode 0b00000000000000000000000001000101 = .ok .calcvhAvx512 := by decide

theorem test_decode_clrerr : decode 0b00000000000000000000000000000110 = .ok .clrerr := by decide

/-- The words of V27 and V60, and a word at each border of R107. -/
theorem test_decode_illegal :
    ([0x00, 0x07, 0x0F, 0x16, 0x31, 0x41, 0x61, 0x71, 0x72, 0xF2, 0x53, 0x54, 0x55, 0xF6, 0x100, 0x111,
      0x80000001] : List Word).all isIllegal = true := by decide +kernel

/-- The host's reading of a table word, and the first instruction after reset. -/
theorem test_fetch_word :
    decodeTableWord 32 0x62 = some .convertDirecti ∧ decodeTableWord 32 0x63 = none ∧
    (stepped (State.reset.withFetchWord 32 0x06)).map (fun t => (t.status, t.pending)) = some (Status.reset, []) := by
  decide +kernel

/-- A transaction is decoded as itself, and a command travels as the data of a REGW to CMD (30_encoding.md R100). -/
theorem test_transactions :
    decodeTransaction (.dstw 3 0xEE) = .dstw 3 0xEE ∧ decodeTransaction (.regr 0x00C) = .regr 0x00C ∧
    encodeTransaction .calchAvx2 = some (.regw 0x010 0x24) ∧ encodeTransaction (.srcr 7) = some (.srcr 7) := by decide

/-! ## Well-formed transactions (40_host_transactions.md R138) -/

/-- An ill-formed term for each check of `Instr.wf`, and the well-formed ones at the borders. -/
theorem test_wellformed :
    Instr.wf Config.reference (.regw 0x011 0) = false ∧ Instr.wf Config.reference (.regr 0x00E) = false ∧
    Instr.wf Config.reference (.srcw 16 0) = false ∧ Instr.wf Config.reference (.srcr 16) = false ∧
    Instr.wf Config.reference (.dstw 16 0) = false ∧ Instr.wf Config.reference (.dstr 16) = false ∧
    Instr.wf Config.reference (.regw 0xFFC 0) = true ∧ Instr.wf Config.reference (.regr 0xFFC) = true ∧
    Instr.wf Config.reference (.srcw 15 0) = true ∧ Instr.wf Config.reference (.srcr 15) = true ∧
    Instr.wf Config.reference (.dstw 15 0) = true ∧ Instr.wf Config.reference (.dstr 15) = true := by decide

/-- What is not well formed is refused by name. -/
theorem test_illformed_refused :
    exec (.regw 0x011 0) State.reset = .refused .misalignedOffset ∧
    exec (.regr 0x00E) State.reset = .refused .misalignedOffset ∧
    exec (.srcw 16 0) State.reset = .refused .srcAddressOutside ∧
    exec (.srcr 16) State.reset = .refused .srcAddressOutside ∧
    exec (.dstw 16 0) State.reset = .refused .dstAddressOutside ∧
    exec (.dstr 16) State.reset = .refused .dstAddressOutside :=
  ⟨rfl, rfl, rfl, rfl, rfl, rfl⟩

/-! ## F (41_lut_create.md R150), V10 and V11 -/

theorem test_remap_values :
    remap 0 1020 1 = 0 ∧ remap 0 1020 2 = 1 ∧ remap 0 1020 4 = 1 ∧ remap 0 1020 1018 = 255 ∧ remap 0 1020 1021 = 255 ∧
    remap 100 200 99 = 0 ∧ remap 100 200 101 = 3 ∧ remap 100 200 127 = 69 ∧ remap 100 200 199 = 252 ∧
    remap (-100) 100 0 = 128 ∧ remap (-100) 100 99 = 254 ∧ remap 0 65535 128 = 0 ∧ remap 0 65535 129 = 1 ∧
    remap (-5) (-1) 0 = 255 ∧ remap 70000 80000 65535 = 0 ∧ remap (-2147483648) 2147483647 65535 = 128 := by decide

/-- Ties go up (V11). -/
theorem test_remap_ties :
    remap 0 510 1 = 1 ∧ remap 0 510 3 = 2 ∧ remap 0 510 5 = 3 ∧ remap 0 510 9 = 5 ∧ remap 0 510 255 = 128 ∧
    remap 0 2 1 = 128 := by decide

/-! ## CREATE, V20 to V26 -/

/-- V21 and V30: the strategy CREATE.AUTO executes for the eight values of CAP = {byte, adv, mid}. -/
theorem test_create_auto :
    ([(false, false, false), (false, false, true), (false, true, false), (false, true, true), (true, false, false),
      (true, false, true), (true, true, false), (true, true, true)] : List (Bool × Bool × Bool)).map
        (fun c => statusAfter .createAuto (withWindow 0 255 (fresh c.1 c.2.1 c.2.2))) =
      [some 0x101, some 0x201, some 0x501, some 0x501, some 0x501, some 0x501, some 0x501, some 0x501] := by
  decide +kernel

/-- V20: the table, the latched window and STATUS. -/
theorem test_create_scalar :
    statusAfter .createScalar (withWindow 0 255 (fresh false false false)) = some 0x101 ∧
    (after .createScalar (withWindow 0 255 (fresh false false false))).map
      (fun t => (t.win, t.table[7]?, t.table[300]?, t.ops.winMax)) =
        some ({ curMin := 0, curMax := 255 }, some 7, some 255, 255) := by decide +kernel

/-- V23 and V24: the comparison is signed, and min = max is invalid. -/
theorem test_create_invalid_window :
    statusAfter .createScalar (withWindow 0x7FFFFFFF 0x80000000 (fresh false false false)) = some 0x14 ∧
    statusAfter .createScalar (withWindow 10 10 (fresh false false false)) = some 0x14 := by decide +kernel

/-- V26: the capability comes before the window. -/
theorem test_create_vec :
    statusAfter .createVec (withWindow 0 255 (fresh false false true)) = some 0x201 ∧
    statusAfter .createVec (withWindow 5 5 (fresh false false false)) = some 0x22 := by decide +kernel

/-- V22: a signed window. -/
theorem test_create_directf :
    (after .createDirectf (withWindow 0xFFFFFF9C 100 (fresh true false false))).map
      (fun t => (statusWord t.status, t.table[0]?, t.table[4]?, t.table[99]?, t.table[100]?)) =
        some (0x501, some 128, some 133, some 254, some 255) := by decide +kernel

/-- V25: a failed CREATE keeps the table and the latched window. -/
theorem test_create_failed_keeps_table :
    (after .createScalar (withWindow 300 255 (withTable 0 255 (fresh false false false)))).map
      (fun t => (statusWord t.status, t.win, t.table[7]?)) =
        some (0x115, { curMin := 0, curMax := 255 }, some 7) := by decide +kernel

/-! ## CONVERT, V40 to V46 -/

/-- V42: the seven words on one input; DST[5] to DST[7] are untouched (V40). -/
theorem test_convert_all :
    convertCommands.map (fun i => (after i convertStart).map fun t => (statusWord t.status, t.dst)) =
      ([0x401, 0x101, 0x201, 0x301, 0x401, 0x501, 0x601] : List Word).map (fun w =>
        some (w, [(1, 1), (2, 255), (3, 255), (4, 1), (5, 0xEE), (6, 0xEE), (7, 0xEE)])) := by decide +kernel

/-- V46: the direct strategies use the latched window. -/
theorem test_convert_latched_window :
    [Instr.convertDirectf, .convertDirecti].map (fun i =>
      (after i { withWindow 50 255 (withSpan 0 0 1 (withTable 0 255 (fresh false false true))) with
        src := [(0, 60)] }).map fun t => t.dst) = [some [(0, 60)], some [(0, 60)]] := by decide +kernel

/-- V43 and V44: LENGTH = 0 needs no span, the last element of each space is inside, one more is not, nothing wraps. -/
theorem test_convert_bounds :
    statusAfter .convertScalar (withSpan 0xFFFFFFFF 0xFFFFFFFF 0 convertStart) = some 0x101 ∧
    statusAfter .convertScalar (withSpan 15 15 1 convertStart) = some 0x101 ∧
    statusAfter .convertScalar (withSpan 0 8 9 convertStart) = some 0x133 ∧
    statusAfter .convertScalar (withSpan 0xFFFFFFFF 0 2 convertStart) = some 0x133 := by decide +kernel

/-- V45: no table, before the bounds and after the capability. -/
theorem test_convert_no_table :
    statusAfter .convertScalar (withSpan 0 0 100 (fresh false false false)) = some 0x54 ∧
    statusAfter .convertDirectf (fresh false false false) = some 0x22 ∧
    statusAfter .convertDirectf (fresh false false true) = some 0x54 := by decide +kernel

/-! ## CALCV, CALCH, CALCVH, V50 to V56 -/

/-- V53: the five CALCV words. -/
theorem test_calcv_all :
    calcvCommands.map (fun i => (after i calcStart).map fun t =>
      (statusWord t.status, t.vres, [t.res.vLen, t.res.hLen, t.res.resNx, t.res.resNy])) =
      ([0x400, 0x100, 0x200, 0x300, 0x400] : List Word).map (fun w =>
        some (w, [6, 8, 10, 14, 16, 18], [6, 0, 3, 2])) := by decide +kernel

/-- V53: the five CALCH words. -/
theorem test_calch_all :
    calchCommands.map (fun i => (after i calcStart).map fun t =>
      (statusWord t.status, t.hres, [t.res.vLen, t.res.hLen, t.res.resNx, t.res.resNy])) =
      ([0x400, 0x100, 0x200, 0x300, 0x400] : List Word).map (fun w =>
        some (w, [3, 5, 7, 11, 13, 15], [0, 6, 3, 2])) := by decide +kernel

/-- V53: the five CALCVH words. -/
theorem test_calcvh_all :
    calcvhCommands.map (fun i => (after i calcStart).map fun t =>
      (statusWord t.status, t.vres, t.hres, t.res.vLen, t.res.hLen)) =
      ([0x400, 0x100, 0x200, 0x300, 0x400] : List Word).map (fun w =>
        some (w, [6, 8, 10, 14, 16, 18], [3, 5, 7, 11, 13, 15], 6, 6)) := by decide +kernel

/-- V30: the strategy the Calc AUTO commands execute for the eight values of CAP. -/
theorem test_calc_auto :
    ([(false, false, false), (false, false, true), (false, true, false), (false, true, true), (true, false, false),
      (true, false, true), (true, true, false), (true, true, true)] : List (Bool × Bool × Bool)).map
        (fun c => [Instr.calcvAuto, .calchAuto, .calcvhAuto].map fun i =>
          statusAfter i (withGeometry 0 0 2 2 12 (fresh c.1 c.2.1 c.2.2))) =
      [[some 0x100, some 0x100, some 0x100], [some 0x300, some 0x200, some 0x200], [some 0x400, some 0x400, some 0x400],
       [some 0x400, some 0x400, some 0x400], [some 0x100, some 0x100, some 0x100], [some 0x300, some 0x200, some 0x200],
       [some 0x400, some 0x400, some 0x400], [some 0x400, some 0x400, some 0x400]] := by decide +kernel

/-- V50, the fifth row: negative offsets, so that the first position is not (0, 0). -/
theorem test_calcvh_negative_offsets :
    (after .calcvhNaive (withGeometry 0xFFFFFFFF 0xFFFFFFFF 3 3 12 calcStart)).map
      (fun t => (t.vres, t.hres, t.res.resNx, t.res.resNy, t.res.resX0, t.res.resY0)) =
        some ([15, 18], [6, 9], 2, 1, 1, 1) := by decide +kernel

/-- V55: the sums wrap at 65536. -/
theorem test_calcvh_wraps :
    (after .calcvhNaive { calcStart with src := imageB }).map (fun t => (t.vres, t.hres)) =
      some ([65534, 5, 7, 2, 11, 13], [0, 3, 5, 3, 9, 11]) := by decide +kernel

/-- V51: no valid position; with N = 0 no bounds check is made. -/
theorem test_calcvh_no_position :
    (after .calcvhNaive (withGeometry 0x80000000 0 1 1 0 calcStart)).map
      (fun t => (statusWord t.status, t.res.vLen, t.res.resNx, t.res.resX0)) =
        some (0x100, 0, 0, 0x80000000) := by decide +kernel

/-- V52 and V56: the bounds, the zero extents. -/
theorem test_calc_errors :
    statusAfter .calcvNaive (withGeometry 0 0 2 2 11 calcStart) = some 0x32 ∧
    statusAfter .calcvNaive (withGeometry 0 0xFFFFFFFF 2 1 8 calcStart) = some 0x100 ∧
    statusAfter .calchNaive (withGeometry 0 0xFFFFFFFF 2 1 7 calcStart) = some 0x32 ∧
    statusAfter .calcvNaive (withGeometry 0 0 0 2 0 calcStart) = some 0x64 ∧
    statusAfter .calchNaive (withGeometry 0 0 2 0 12 calcStart) = some 0x64 := by decide +kernel

/-- V52: SRC_BASE counts towards the end of SRC: SRC_WORDS = 14 is enough for a base of 2, 13 is not. -/
theorem test_calc_base :
    statusAfter .calcvhNaive { withSpan 2 0 0 calcStart with cfg := { Config.reference with srcWords := 14 } } =
      some 0x100 ∧
    statusAfter .calcvhNaive { withSpan 2 0 0 calcStart with cfg := { Config.reference with srcWords := 13 } } =
      some 0x32 := by decide +kernel

/-! ## CLRERR and the FAULT state, V61 to V64 -/

/-- V61: CLRERR clears ERR_STICKY and LAST_CODE and keeps LAST_STRAT and TABLE_VALID. -/
theorem test_clrerr :
    statusAfter .clrerr { fresh false false true with
      status := { tableValid := true, fault := false, errSticky := true, lastCode := .illegalCmd, lastStrat := 2 } } =
        some 0x201 := by decide +kernel

/-- V62: in the FAULT state no command does anything, an illegal word neither. -/
theorem test_fault_ignores :
    statusAfter .clrerr faulted = some 0x222 ∧ statusAfter (.regw 0x010 0x01) faulted = some 0x222 ∧
    statusAfter (.regw 0x010 0x00) faulted = some 0x222 := by decide +kernel

/-! ## Host transactions, V60 and V70 to V74 -/

/-- V60 and V64: an illegal word is ILLEGAL_CMD, whatever strategy it names. -/
theorem test_regw_illegal_word :
    statusAfter (.regw 0x010 0x00) (fresh false false false) = some 0x44 ∧
    statusAfter (.regw 0x010 0x31) (fresh false false false) = some 0x44 ∧
    statusAfter (.regw 0x010 0x13) (withGeometry 0 0 1 1 0 (fresh false false false)) = some 0x32 := by decide +kernel

/-- V72: TBL_IDX keeps 16 bits, RES_IDX all 32. -/
theorem test_regw_index :
    (after (.regw 0x05C 0x00012345) State.reset).map (fun t => t.ops.tblIdx) = some 0x2345 ∧
    (after (.regw 0x064 0xFFFFFFFF) State.reset).map (fun t => t.ops.resIdx) = some 0xFFFFFFFF := by decide +kernel

/-- V70 and V71: the constants, CAP, GEOM, a reserved offset. -/
theorem test_regr_constants :
    [0x000, 0x004, 0x008, 0x00C, 0x010, 0x070, 0xFFC].map (fun off => replyOf (.regr off) (fresh true false true)) =
      [some (.word 0x4C560007), some (.word 5), some (.word 0x00030004), some (.word 0), some (.word 0),
        some (.word 0), some (.word 0)] := by decide +kernel

/-- V57: the data windows read the entry at the index, and H_LEN too is 6. -/
theorem test_regr_windows :
    [0x044, 0x048, 0x068, 0x06C].map (fun off =>
      replyOf (.regr off)
        { calcStart with
          vres := [6, 8, 10, 14, 16, 18]
          hres := [3, 5, 7, 11, 13, 15]
          res := { calcStart.res with vLen := 6, hLen := 6 }
          ops := { calcStart.ops with resIdx := 4 } }) =
      [some (.word 6), some (.word 6), some (.word 16), some (.word 13)] ∧
    replyOf (.regr 0x060) { convertStart with ops := { convertStart.ops with tblIdx := 127 } } =
      some (.word 32) := by decide +kernel

/-- V74: `src[3] = 1021` and reading it. -/
theorem test_srcw : (after (.srcw 3 1021) { fresh true true true with src := [(3, 7), (5, 1)] }).map (fun t => t.src) =
    some [(3, 1021), (5, 1)] := by decide +kernel

theorem test_srcr : replyOf (.srcr 3) { fresh true true true with src := [(3, 1021)] } = some (.sample 1021) := by
  decide +kernel

/-- V74: `dst[0] = 0xEE` and reading it; writing what an unlisted element holds leaves no entry. -/
theorem test_dstw :
    (after (.dstw 0 0xEE) (fresh true true true)).map (fun t => t.dst) = some [(0, 0xEE)] ∧
    (after (.dstw 0 0) { fresh true true true with dst := [(0, 0xEE)] }).map (fun t => t.dst) = some [] := by
  decide +kernel

theorem test_dstr : replyOf (.dstr 0) { fresh true true true with dst := [(0, 0xEE)] } = some (.byte 0xEE) := by
  decide +kernel

/-- V62 and V74: RESET leaves the FAULT state and keeps SRC and DST. -/
theorem test_reset :
    (after .reset { faulted with src := [(3, 1021)], dst := [(0, 0xEE)], ops := { faulted.ops with length := 5 } }) =
      some { fresh false false true with src := [(3, 1021)], dst := [(0, 0xEE)] } := by decide +kernel

/-! ## Witnesses: for every obligation with hypotheses, concrete operands that meet them -/

/-- A built table meets the table invariant. -/
theorem tableOk_withTable (mn mx : Word) (s : State) (h : sext32 mn < sext32 mx) : TableOk (withTable mn mx s) :=
  fun _ => ⟨h, remapTable_length _ _, remapTable_getElem? _ _⟩

/-- The start of the CONVERT tests meets the table invariant. -/
theorem tableOk_convertStart : TableOk convertStart := tableOk_withTable 0 1020 (fresh true true true) (by decide)

/-- SRC and DST of the start of the CONVERT tests are canonical and inside their spaces. -/
theorem memoriesOk_convertStart : MemoriesOk convertStart := by decide

theorem witness_IllegalWordsExactly :
    (∀ w ∈ ([0x100, 0xFFFFFFFF, 0x00, 0x07, 0x0F, 0x31, 0x41, 0x61, 0xF1, 0x72, 0xF2, 0x53, 0xF5, 0x16] : List Word),
      ∃ e, decode w = .error e) ∧ Operating State.reset := by
  refine ⟨fun w hw => ?_, rfl⟩
  have key : ([0x100, 0xFFFFFFFF, 0x00, 0x07, 0x0F, 0x31, 0x41, 0x61, 0xF1, 0x72, 0xF2, 0x53, 0xF5, 0x16] :
      List Word).all isIllegal = true := by decide +kernel
  have := List.all_eq_true.1 key w hw
  simp only [isIllegal] at this
  cases h : decode w with
  | error e => exact ⟨e, rfl⟩
  | ok i => rw [h] at this; cases this

theorem witness_StepRunsTransaction :
    ({ State.reset with pending := [.reset, .regr 0x00C] } : State).pending = .reset :: [.regr 0x00C] ∧
    (State.reset.withFetchWord 32 0x13).pending = .regw 0x010 0x13 :: [] ∧ decode 0x13 = .ok .calcvNaive ∧
    State.reset.pending = [] := by decide +kernel

theorem witness_RegwRule :
    InFault faulted ∧ Operating State.reset ∧ decode 0x06 = .ok .clrerr ∧ decode 0x00 = .error .reservedOp ∧
    (0x000 : BitVec 12).toNat % 4 = 0 ∧ (0xFFC : BitVec 12).toNat % 4 = 0 ∧
    (0x000 : BitVec 12) ∉ ([0x010, 0x014, 0x018, 0x01C, 0x020, 0x024, 0x028, 0x02C, 0x030, 0x034, 0x038, 0x05C, 0x064] :
      List (BitVec 12)) ∧
    (0xFFC : BitVec 12) ∉ ([0x010, 0x014, 0x018, 0x01C, 0x020, 0x024, 0x028, 0x02C, 0x030, 0x034, 0x038, 0x05C, 0x064] :
      List (BitVec 12)) := by decide

/-- Image A with both results, the index at the last valid entry. -/
def resultState (idx : Word) : State :=
  { convertStart with
    vres := [6, 8, 10, 14, 16, 18]
    hres := [3, 5, 7, 11, 13, 15]
    res := { convertStart.res with vLen := 6, hLen := 6, resNx := 3, resNy := 2 }
    ops := { convertStart.ops with resIdx := idx, tblIdx := 1020 } }

theorem witness_RegrRule :
    Config.reference.WF ∧ (resultState 5).cfg.WF ∧ (resultState 5).status.tableValid = true ∧
    (resultState 5).table[(resultState 5).ops.tblIdx.toNat]? = some 255 ∧ State.reset.status.tableValid = false ∧
    (resultState 5).ops.resIdx.toNat < (resultState 5).res.vLen.toNat ∧
    (resultState 5).vres[(resultState 5).ops.resIdx.toNat]? = some 18 ∧
    (resultState 5).ops.resIdx.toNat < (resultState 5).res.hLen.toNat ∧
    (resultState 5).hres[(resultState 5).ops.resIdx.toNat]? = some 15 ∧
    ¬ (resultState 6).ops.resIdx.toNat < (resultState 6).res.vLen.toNat ∧
    ¬ (resultState 6).ops.resIdx.toNat < (resultState 6).res.hLen.toNat ∧
    (0x070 : BitVec 12).toNat % 4 = 0 ∧ 0x70 ≤ (0x070 : BitVec 12).toNat ∧ (0xFFC : BitVec 12).toNat % 4 = 0 := by
  decide +kernel

theorem witness_TableIndexWindow :
    convertStart.status.tableValid = true ∧
    convertStart.table[(0x1FFFF : Word).toNat % 65536]? = some (remapByte 0 1020 65535) ∧
    State.reset.status.tableValid = false :=
  ⟨rfl, remapTable_getElem? 0 1020 65535 (by decide), rfl⟩

theorem witness_ScratchIndexWindow :
    (5 : Word).toNat < (resultState 0).res.vLen.toNat ∧ (resultState 0).vres[(5 : Word).toNat]? = some 18 ∧
    ¬ (6 : Word).toNat < (resultState 0).res.vLen.toNat ∧
    (5 : Word).toNat < (resultState 0).res.hLen.toNat ∧ (resultState 0).hres[(5 : Word).toNat]? = some 15 ∧
    ¬ (6 : Word).toNat < (resultState 0).res.hLen.toNat := by decide

theorem witness_ReservedReadZeroIgnoreWrites :
    (0x070 : BitVec 12).toNat % 4 = 0 ∧ 0x70 ≤ (0x070 : BitVec 12).toNat ∧
    (∃ t, exec (.regr 0x004) (fresh true true true) = .next t ∧ t.reply = .word 7) ∧
    (∃ t, exec (.regr 0x00C) convertStart = .next t ∧ t.reply = .word 0x101) ∧
    (∃ t, exec (.regr 0x05C) (resultState 0) = .next t ∧ t.reply = .word 1020) ∧
    (∃ t, exec (.regr 0x060) (resultState 0) = .next t ∧ t.reply = .word 255) ∧
    (∃ t, exec (.regr 0x068) (resultState 5) = .next t ∧ t.reply = .word 18) ∧
    (∃ t, exec (.regr 0x06C) (resultState 5) = .next t ∧ t.reply = .word 15) :=
  ⟨by decide, by decide, ⟨_, rfl, by decide +kernel⟩, ⟨_, rfl, by decide +kernel⟩, ⟨_, rfl, by decide +kernel⟩,
    ⟨_, rfl, by decide +kernel⟩, ⟨_, rfl, by decide +kernel⟩, ⟨_, rfl, by decide +kernel⟩⟩

theorem witness_IdAndGeomNeverChange :
    State.reset.cfg.WF ∧ ∃ t, exec (.regw 0x008 0xFFFFFFFF) State.reset = .next t := ⟨by decide, _, rfl⟩

theorem witness_CapLatchedAtResetOnly :
    CapOk (fresh true false true) ∧ ∃ t, step (fresh true false true) = .next t := ⟨by decide, _, rfl⟩

theorem witness_SourceMemoryAccess : Memory.wf samples ∧ 15 < Config.reference.srcWords := by decide

theorem witness_DestinationMemoryAccess : Memory.wf poison ∧ 15 < Config.reference.dstBytes := by decide

theorem witness_ResetRule : InFault faulted ∧ (∃ t, exec .clrerr faulted = .next t) ∧ Instr.clrerr ≠ .reset :=
  ⟨by decide, ⟨_, rfl⟩, by decide⟩

/-- A window, with a sample at min, at max, and one strictly between. -/
theorem witness_RemapRoundsHalfUp :
    (0 : Int) < 510 ∧ (0 : Int) ≤ 0 ∧ (510 : Int) ≤ 510 ∧ (0 : Int) < 1 ∧ (1 : Int) < 510 := by decide

theorem witness_RemapMonotone : (-2147483648 : Int) < 2147483647 ∧ (0 : Int) ≤ 0 := by decide

/-- The operating condition with each of the three capabilities absent, and with each present. -/
theorem witness_LutCapabilityGate :
    Operating (fresh false false false) ∧ Operating (fresh true true true) ∧
    (fresh false false false).cap = { mid := false, adv := false, byte := false } ∧
    (fresh true true true).cap = { mid := true, adv := true, byte := true } := by decide

/-- Each AUTO command, completing. -/
theorem witness_AutoDispatch :
    Operating convertStart ∧ Operating calcStart ∧
    (∃ t, exec .createAuto convertStart = .next t ∧ t.status.lastCode = .ok) ∧
    (∃ t, exec .convertAuto convertStart = .next t ∧ t.status.lastCode = .ok) ∧
    (∃ t, exec .calcvAuto calcStart = .next t ∧ t.status.lastCode = .ok) ∧
    (∃ t, exec .calchAuto calcStart = .next t ∧ t.status.lastCode = .ok) ∧
    (∃ t, exec .calcvhAuto calcStart = .next t ∧ t.status.lastCode = .ok) :=
  ⟨rfl, rfl, ⟨_, rfl, by decide +kernel⟩, ⟨_, rfl, by decide +kernel⟩, ⟨_, rfl, by decide +kernel⟩,
    ⟨_, rfl, by decide +kernel⟩, ⟨_, rfl, by decide +kernel⟩⟩

/-- Each clause for each CREATE that can meet it: AUTO and SCALAR are always supported. -/
theorem witness_CreateRule :
    (∀ i ∈ [Instr.createVec, .createDirectf],
      Operating (fresh false false false) ∧ strategySupported i (fresh false false false).cap = false) ∧
    (∀ i ∈ createCommands, Operating (fresh true true true) ∧ strategySupported i (fresh true true true).cap = true ∧
      ¬ WindowOk (fresh true true true) ∧ ¬ WindowOk (withWindow 10 10 (fresh true true true)) ∧
      WindowOk (withWindow 0x80000000 0x7FFFFFFF (fresh true true true))) := by decide

/-- Each clause for each CONVERT that can meet it. -/
theorem witness_ConvertRule :
    (∀ i ∈ [Instr.convertVec, .convertGather, .convertBperm, .convertDirectf, .convertDirecti],
      Operating (fresh false false false) ∧ strategySupported i (fresh false false false).cap = false) ∧
    (∀ i ∈ convertCommands, Operating convertStart ∧ strategySupported i convertStart.cap = true ∧
      (fresh true true true).status.tableValid = false ∧ convertStart.status.tableValid = true ∧
      ¬ SpansInside (withSpan 0 0 17 convertStart) ∧ SpansInside (withSpan 0 0 16 convertStart) ∧
      SpansInside convertStart ∧ sext32 convertStart.win.curMin < sext32 convertStart.win.curMax ∧
      Memory.wf convertStart.dst) ∧
    convertStart.table.length = 65536 :=
  ⟨by decide, by decide, remapTable_length _ _⟩

theorem witness_LookupAndDirectAgree :
    (∀ i ∈ convertCommands, strategySupported i convertStart.cap = true) ∧ Operating convertStart ∧
    convertStart.status.tableValid = true ∧ TableOk convertStart ∧ Memory.wf convertStart.dst ∧
    SpansInside convertStart :=
  ⟨by decide, rfl, rfl, tableOk_convertStart, by decide, by decide⟩

/-- The start of CREATE.AUTO then CONVERT.AUTO: the window (0, 255) over all of SRC and DST. -/
def clipStart : State := { withSpan 0 0 16 (withWindow 0 255 (fresh false false false)) with src := imageA }

theorem witness_CreateThenConvertClips :
    Operating clipStart ∧ clipStart.ops.winMin = 0 ∧ clipStart.ops.winMax = 255 ∧ Memory.wf clipStart.dst ∧
    SpansInside clipStart := by decide

theorem witness_ResultIndexBijection :
    ValidPosition (geometry calcStart) 2 1 ∧ (0 : Int) ≤ 5 ∧ (5 : Int) < nPositions (geometry calcStart) := by decide

theorem witness_WindowsCoveredByMaxIdx :
    0 < (geometry calcStart).hx ∧ 0 < (geometry calcStart).vx ∧ ValidPosition (geometry calcStart) 2 1 ∧
    (1 : Int) < (geometry calcStart).hx ∧ (1 : Int) < (geometry calcStart).vx := by decide

/-- Each clause for each Calc that can meet it. -/
theorem witness_CalcRule :
    (∀ i ∈ [Instr.calcvAvx2, .calcvAvx2v, .calcvAvx512, .calchAvx2, .calchAvx2v, .calchAvx512, .calcvhAvx2,
        .calcvhAvx2v, .calcvhAvx512],
      Operating (fresh false false false) ∧ strategySupported i (fresh false false false).cap = false) ∧
    (∀ i ∈ calcvCommands ++ calchCommands ++ calcvhCommands,
      calcStart.cfg.WF ∧ Operating calcStart ∧ strategySupported i calcStart.cap = true ∧
      ¬ ExtentsOk (withGeometry 0 0 0 2 12 calcStart) ∧ ¬ ExtentsOk (withGeometry 0 0 2 0 12 calcStart) ∧
      ExtentsOk (withGeometry 0 0 2 2 11 calcStart) ∧ ¬ WindowsInside (withGeometry 0 0 2 2 11 calcStart) ∧
      ExtentsOk calcStart ∧ WindowsInside calcStart ∧ WindowsInside (withGeometry 3 0 2 2 0 calcStart)) := by decide

/-- A Calc of each operation that completes, and the first and the last valid position. -/
theorem witness_SumsReadBack :
    calcStart.cfg.WF ∧ Operating calcStart ∧
    (∃ t, exec .calcvAvx2 calcStart = .next t ∧ t.status.lastCode = .ok) ∧
    (∃ t, exec .calchNaive calcStart = .next t ∧ t.status.lastCode = .ok) ∧
    (∃ t, exec .calcvhAvx512 calcStart = .next t ∧ t.status.lastCode = .ok) ∧
    ValidPosition (geometry calcStart) 0 0 ∧ ValidPosition (geometry calcStart) 2 1 :=
  ⟨by decide, rfl, ⟨_, rfl, by decide +kernel⟩, ⟨_, rfl, by decide +kernel⟩, ⟨_, rfl, by decide +kernel⟩, by decide,
    by decide⟩

theorem witness_CalcvhIsCalcvPlusCalch :
    Operating calcStart ∧
    ∃ v h b, exec .calcvAvx2v calcStart = .next v ∧ exec .calchAvx512 calcStart = .next h ∧
      exec .calcvhAuto calcStart = .next b ∧ v.status.lastCode = .ok ∧ h.status.lastCode = .ok ∧
      b.status.lastCode = .ok :=
  ⟨rfl, _, _, _, rfl, rfl, rfl, by decide +kernel, by decide +kernel, by decide +kernel⟩

theorem witness_ClrerrRule : Operating State.reset ∧ InFault faulted := by decide

theorem witness_PriorityOfChecks :
    InFault faulted ∧ Operating State.reset ∧ decode 0x00 = .error .reservedOp ∧ decode 0x06 = .ok .clrerr ∧
    decode 0x45 = .ok .calcvhAvx512 ∧ decode 0x12 = .ok .convertScalar := by decide

theorem witness_RecoverableErrorsArePrecise :
    Operating (fresh true true true) ∧
    (∃ t, exec (.regw 0x010 0x00) (fresh true true true) = .next t ∧ t.status.lastCode = .illegalCmd) ∧
    (∃ t, exec (.regw 0x010 0x01) (fresh true true true) = .next t ∧ t.status.lastCode = .invalidWindow) ∧
    (∃ t, exec (.regw 0x010 0x02) (fresh true true true) = .next t ∧ t.status.lastCode = .tableNotBuilt) ∧
    (∃ t, exec (.regw 0x010 0x03) (fresh true true true) = .next t ∧ t.status.lastCode = .badGeometry) :=
  ⟨rfl, ⟨_, rfl, by decide +kernel⟩, ⟨_, rfl, by decide +kernel⟩, ⟨_, rfl, by decide +kernel⟩,
    ⟨_, rfl, by decide +kernel⟩⟩

theorem witness_FatalFaultsStopCommandsUntilReset :
    Operating (fresh false false false) ∧
    (∃ t, exec (.regw 0x010 0x22) (fresh false false false) = .next t ∧ t.status.lastCode = .capMismatch) ∧
    (∃ t, exec (.regw 0x010 0x13) (withGeometry 0 0 1 1 0 calcStart) = .next t ∧ t.status.lastCode = .outOfBounds) ∧
    InFault faulted ∧ Instr.regw 0x024 5 ∉ allCommands ∧ (∀ w, Instr.regw 0x024 5 ≠ .regw 0x010 w) ∧
    (∃ t, exec (.regw 0x024 5) State.reset = .next t) ∧ ∃ t, exec .createAuto faulted = .next t :=
  ⟨rfl, ⟨_, rfl, by decide +kernel⟩, ⟨_, rfl, by decide +kernel⟩, rfl, by decide, by simp, ⟨_, rfl⟩, ⟨_, rfl⟩⟩

/-- Every command answers a next state from every state. -/
theorem witness_CommandsNeverWriteOperands : ∀ i ∈ allCommands, ∃ t, exec i convertStart = .next t := by
  intro i hi
  obtain ⟨body, h, -⟩ := exec_command i hi
  exact ⟨_, h convertStart⟩

/-- Each kind of state is changed by one of its owners. -/
theorem witness_OnlyOwnersWriteMemories :
    (∃ t, exec .createAuto (withWindow 0 1 (fresh false false false)) = .next t ∧
      t.win ≠ (fresh false false false).win) ∧
    (∃ t, exec .calcvAuto calcStart = .next t ∧ t.vres ≠ calcStart.vres) ∧
    (∃ t, exec .convertAuto convertStart = .next t ∧ t.dst ≠ convertStart.dst) ∧
    (∃ t, exec (.srcw 15 1) State.reset = .next t ∧ t.src ≠ State.reset.src) ∧
    (∃ t, exec (.regw 0x024 5) State.reset = .next t ∧ t.ops ≠ State.reset.ops) :=
  ⟨⟨_, rfl, by decide +kernel⟩, ⟨_, rfl, by decide +kernel⟩, ⟨_, rfl, by decide +kernel⟩, ⟨_, rfl, by decide +kernel⟩,
    ⟨_, rfl, by decide +kernel⟩⟩

/-- Operands that differ where a command does not read. -/
theorem witness_UnreadOperandsHaveNoEffect :
    (∃ t, exec .createAuto (withWindow 0 1 State.reset) = .next t) ∧
    (∃ t, exec .convertVec convertStart = .next t) ∧ (∃ t, exec .calchAvx2 calcStart = .next t) ∧
    (∃ t, exec .clrerr State.reset = .next t) ∧
    (withSpan 1 2 3 (withWindow 0 1 State.reset)).ops.winMin = (withWindow 0 1 State.reset).ops.winMin ∧
    (withWindow 7 8 convertStart).ops.length = convertStart.ops.length ∧
    (withWindow 7 8 calcStart).ops.hext = calcStart.ops.hext ∧ (withWindow 7 8 calcStart).ops ≠ calcStart.ops :=
  ⟨⟨_, rfl⟩, ⟨_, rfl⟩, ⟨_, rfl⟩, ⟨_, rfl⟩, rfl, rfl, rfl, by decide⟩

theorem witness_StrategiesAgree :
    Operating convertStart ∧ TableOk convertStart ∧ MemoriesOk convertStart ∧
    ∃ t u, exec .convertBperm convertStart = .next t ∧ exec .convertDirecti convertStart = .next u ∧
      t.status.lastCode = .ok ∧ u.status.lastCode = .ok :=
  ⟨rfl, tableOk_convertStart, memoriesOk_convertStart, _, _, rfl, rfl, by decide +kernel, by decide +kernel⟩

theorem witness_CommandsAreIdempotent :
    TableOk convertStart ∧ MemoriesOk convertStart ∧ (∃ t, exec .convertGather convertStart = .next t) ∧
    ∃ t, exec .createDirectf convertStart = .next t :=
  ⟨tableOk_convertStart, memoriesOk_convertStart, ⟨_, rfl⟩, ⟨_, rfl⟩⟩

/-- The start of the CONVERT tests with a CREATE.DIRECTF pending. -/
def invariantStart : State := convertStart.withFetchWord 32 0x51

theorem witness_ParametersNeverChange : ∃ t, step invariantStart = .next t := ⟨_, rfl⟩

theorem witness_TableInvariantKept : TableOk invariantStart ∧ ∃ t, step invariantStart = .next t :=
  ⟨tableOk_convertStart, _, rfl⟩

theorem witness_ScratchInvariantKept :
    invariantStart.cfg.WF ∧ ScratchOk invariantStart ∧ ∃ t, step invariantStart = .next t :=
  ⟨by decide, by decide, _, rfl⟩

theorem witness_StatusInvariantKept : StatusOk invariantStart ∧ ∃ t, step invariantStart = .next t :=
  ⟨by decide, _, rfl⟩

theorem witness_MemoryFormKept : MemoriesOk invariantStart ∧ ∃ t, step invariantStart = .next t :=
  ⟨memoriesOk_convertStart, _, rfl⟩

end Sys2Proof.Tests
end

section
/-! PROOFS. The parameters (00_scope.md R12, 10_state.md R42): no operation, no instruction and no step changes them. -/

namespace Sys2Proof.Machine

open Sys2Proof

@[simp] theorem convertLoop_cfg (e : LutStrat) (n sa da : Nat) (s : State) :
    (convertLoop e n sa da s).cfg = s.cfg := by rw [convertLoop_state]

@[simp] theorem readOffset_cfg (off : BitVec 12) (s : State) : (readOffset off s).2.cfg = s.cfg := by
  rw [readOffset_state]

@[simp] theorem writeOffset_cfg (off : BitVec 12) (data : Word) (s : State) :
    (writeOffset off data s).cfg = s.cfg := by rw [writeOffset_state]

/-- None of the effects touches the parameters; RESET latches CAP from them and keeps them (10_state.md R24, R43). -/
theorem Effect.cfg_eq {i : Instr} {s t : State} (h : Effect i s t) : t.cfg = s.cfg := by
  cases h with
  | ignored | error | acknowledged => simp
  | created | calculated => simp
  | converted => rw [answer_cfg, succeed_cfg, convertLoop_cfg]
  | wroteRegister => rw [answer_cfg, writeOffset_cfg]
  | readRegister => rw [answer_cfg, readOffset_cfg]
  | wroteSource | wroteDestination => rw [answer_cfg]
  | readSource | readDestination => rw [answer_cfg]
  | wasReset => rw [answer_cfg, resetCore_cfg]

/-- An instruction, whether a command or a host transaction, keeps the parameters. -/
theorem exec_cfg {i : Instr} {s t : State} (h : exec i s = .next t) : t.cfg = s.cfg := (exec_effect h).cfg_eq

/-- Settles O41: a step is idle or executes one instruction, and taking the transaction off `pending` leaves the
parameters alone too. -/
theorem parametersNeverChange : Obligations.ParametersNeverChange := by
  intro s t h
  obtain ⟨-, rfl⟩ | ⟨tr, rest, -, hexec⟩ := step_cases h
  · rfl
  · calc t.cfg = ({ s with pending := rest } : State).cfg := exec_cfg hexec
      _ = s.cfg := rfl

end Sys2Proof.Machine
end

section
/-! PROOFS. The frames of the three operations that walk a loop or the register map, one lemma a field; the parameters'
stand above. -/

namespace Sys2Proof.Machine

open Sys2Proof

/-! ## convertLoop: DST and the count of draws only (42_lut_convert.md R170) -/

section
variable (e : LutStrat) (n sa da : Nat) (s : State)

@[simp] theorem convertLoop_cap : (convertLoop e n sa da s).cap = s.cap := by rw [convertLoop_state]
@[simp] theorem convertLoop_status : (convertLoop e n sa da s).status = s.status := by rw [convertLoop_state]
@[simp] theorem convertLoop_ops : (convertLoop e n sa da s).ops = s.ops := by rw [convertLoop_state]
@[simp] theorem convertLoop_win : (convertLoop e n sa da s).win = s.win := by rw [convertLoop_state]
@[simp] theorem convertLoop_res : (convertLoop e n sa da s).res = s.res := by rw [convertLoop_state]
@[simp] theorem convertLoop_table : (convertLoop e n sa da s).table = s.table := by rw [convertLoop_state]
@[simp] theorem convertLoop_vres : (convertLoop e n sa da s).vres = s.vres := by rw [convertLoop_state]
@[simp] theorem convertLoop_hres : (convertLoop e n sa da s).hres = s.hres := by rw [convertLoop_state]
@[simp] theorem convertLoop_src : (convertLoop e n sa da s).src = s.src := by rw [convertLoop_state]

end

/-! ## readOffset: the count of draws only (40_host_transactions.md R132) -/

section
variable (off : BitVec 12) (s : State)

@[simp] theorem readOffset_cap : (readOffset off s).2.cap = s.cap := by rw [readOffset_state]
@[simp] theorem readOffset_status : (readOffset off s).2.status = s.status := by rw [readOffset_state]
@[simp] theorem readOffset_ops : (readOffset off s).2.ops = s.ops := by rw [readOffset_state]
@[simp] theorem readOffset_win : (readOffset off s).2.win = s.win := by rw [readOffset_state]
@[simp] theorem readOffset_res : (readOffset off s).2.res = s.res := by rw [readOffset_state]
@[simp] theorem readOffset_table : (readOffset off s).2.table = s.table := by rw [readOffset_state]
@[simp] theorem readOffset_vres : (readOffset off s).2.vres = s.vres := by rw [readOffset_state]
@[simp] theorem readOffset_hres : (readOffset off s).2.hres = s.hres := by rw [readOffset_state]
@[simp] theorem readOffset_src : (readOffset off s).2.src = s.src := by rw [readOffset_state]
@[simp] theorem readOffset_dst : (readOffset off s).2.dst = s.dst := by rw [readOffset_state]

end

/-! ## writeOffset: the operand and index registers only (40_host_transactions.md R131) -/

section
variable (off : BitVec 12) (data : Word) (s : State)

@[simp] theorem writeOffset_cap : (writeOffset off data s).cap = s.cap := by rw [writeOffset_state]
@[simp] theorem writeOffset_status : (writeOffset off data s).status = s.status := by rw [writeOffset_state]
@[simp] theorem writeOffset_win : (writeOffset off data s).win = s.win := by rw [writeOffset_state]
@[simp] theorem writeOffset_res : (writeOffset off data s).res = s.res := by rw [writeOffset_state]
@[simp] theorem writeOffset_table : (writeOffset off data s).table = s.table := by rw [writeOffset_state]
@[simp] theorem writeOffset_vres : (writeOffset off data s).vres = s.vres := by rw [writeOffset_state]
@[simp] theorem writeOffset_hres : (writeOffset off data s).hres = s.hres := by rw [writeOffset_state]
@[simp] theorem writeOffset_src : (writeOffset off data s).src = s.src := by rw [writeOffset_state]
@[simp] theorem writeOffset_dst : (writeOffset off data s).dst = s.dst := by rw [writeOffset_state]

end

end Sys2Proof.Machine
end

section
/-! PROOFS. Who writes what (10_state.md R21, R32, R33, R37, R39, 20_memory.md R71, R74), said once over the effects: each
piece of state is kept, or the effect is one of its writers. -/

namespace Sys2Proof.Machine

open Sys2Proof

section
variable {i : Instr} {s t : State}

/-- TABLE_VALID, the latched window and TABLE are kept, written by a successful CREATE, or reset. -/
theorem Effect.table_cases (h : Effect i s t) :
    (t.status.tableValid = s.status.tableValid ∧ t.win = s.win ∧ t.table = s.table) ∨
    (Carries createCommands i ∧ WindowOk s ∧ ∃ k, t = answer .nothing (succeed k (buildTable s))) ∨
    (i = .reset ∧ t = answer .nothing (resetCore s)) := by
  cases h with
  | created hi k _ hw => exact .inr (.inl ⟨hi, hw, k, rfl⟩)
  | wasReset hi => exact .inr (.inr ⟨hi, rfl⟩)
  | _ => exact .inl (by simp)

/-- VRES, HRES and the result registers are kept, written by a successful Calc, or reset. -/
theorem Effect.scratch_cases (h : Effect i s t) :
    (t.res = s.res ∧ t.vres = s.vres ∧ t.hres = s.hres) ∨
    (Carries (calcvCommands ++ calchCommands ++ calcvhCommands) i ∧
      ∃ op k, t = answer .nothing (succeed k (storeResults op s))) ∨
    (i = .reset ∧ t = answer .nothing (resetCore s)) := by
  cases h with
  | calculated hi op k => exact .inr (.inl ⟨hi, op, k, rfl⟩)
  | wasReset hi => exact .inr (.inr ⟨hi, rfl⟩)
  | _ => exact .inl (by simp)

/-- DST is kept but by a CONVERT and a DSTW. -/
theorem Effect.dst_cases (h : Effect i s t) :
    t.dst = s.dst ∨ Carries convertCommands i ∨ ∃ a v, i = .dstw a v := by
  cases h with
  | converted hi => exact .inr (.inl hi)
  | wroteDestination a v hi => exact .inr (.inr ⟨a, v, hi⟩)
  | _ => exact .inl (by simp)

/-- SRC is kept but by an SRCW. -/
theorem Effect.src_cases (h : Effect i s t) : t.src = s.src ∨ ∃ a v, i = .srcw a v := by
  cases h with
  | wroteSource a v hi => exact .inr ⟨a, v, hi⟩
  | _ => exact .inl (by simp)

/-- The operand and index registers are kept but by a REGW and RESET. -/
theorem Effect.ops_cases (h : Effect i s t) : t.ops = s.ops ∨ (∃ off v, i = .regw off v) ∨ i = .reset := by
  cases h with
  | wroteRegister off data hi => exact .inr (.inl ⟨off, data, hi⟩)
  | wasReset hi => exact .inr (.inr hi)
  | _ => exact .inl (by simp)

/-- CAP is kept, or latched again from the parameters by RESET (10_state.md R24). -/
theorem Effect.cap_cases (h : Effect i s t) : t.cap = s.cap ∨ (i = .reset ∧ CapOk t) := by
  cases h with
  | wasReset hi => exact .inr ⟨hi, rfl⟩
  | _ => exact .inl (by simp)

/-- An instruction that is no REGW to CMD carries a command only by being it. -/
theorem Carries.mem {cs : List Instr} (h : Carries cs i) (hi : ∀ w, i ≠ .regw cmdOffset w) : i ∈ cs := by
  obtain ⟨j, hj, rfl | ⟨w, rfl, -⟩⟩ := h
  · exact hj
  · exact absurd rfl (hi w)

/-- A property that no effect breaks, and that says nothing of the host's further transactions, is kept by every step. -/
theorem step_keeps {P : State → Prop} (hpending : ∀ s rest, P s → P { s with pending := rest })
    (heffect : ∀ {i s t}, Effect i s t → P s → P t) (h : step s = .next t) (hs : P s) : P t := by
  obtain ⟨-, rfl⟩ | ⟨tr, rest, -, hexec⟩ := step_cases h
  · exact hs
  · exact heffect (exec_effect hexec) (hpending s rest hs)

end

end Sys2Proof.Machine
end

section
/-! PROOFS. The table invariant (10_state.md R38), the scratch invariant (R33, R39), CAP (R24), and who writes the
memories. -/

namespace Sys2Proof.Machine

open Sys2Proof

/-! ## TABLE -/

/-- A successful CREATE establishes the table invariant (41_lut_create.md R154): its own window is the latched one. -/
theorem tableOk_buildTable {s : State} (hw : WindowOk s) : TableOk (buildTable s) :=
  fun _ => ⟨hw, remapTable_length _ _, remapTable_getElem? _ _⟩

/-- Every effect keeps the table invariant. -/
theorem Effect.tableOk {i : Instr} {s t : State} (h : Effect i s t) (hs : TableOk s) : TableOk t := by
  obtain ⟨hvalid, hwin, htable⟩ | ⟨-, hw, k, rfl⟩ | ⟨-, rfl⟩ := h.table_cases
  · unfold TableOk
    rwa [hvalid, hwin, htable]
  · exact fun hv => tableOk_buildTable hw rfl
  · exact fun hv => absurd hv Bool.false_ne_true

/-- Settles O42: only CREATE and RESET touch what the table invariant speaks of. -/
theorem tableInvariantKept : Obligations.TableInvariantKept :=
  fun _ _ hs h => step_keeps (fun _ _ hs => hs) Effect.tableOk h hs

/-! ## VRES and HRES -/

/-- One scratch memory: the length register counts its entries, which fit, and is 0 or RES_NX times RES_NY. -/
def PassOk (c : Config) (entries : List Sample) (len nx ny : Word) : Prop :=
  entries.length = len.toNat ∧ len.toNat ≤ c.imgW * c.imgH ∧ (len = 0 ∨ len.toNat = nx.toNat * ny.toNat)

/-- The scratch invariant is `PassOk` of both scratch memories. -/
theorem scratchOk_iff (s : State) :
    ScratchOk s ↔ PassOk s.cfg s.vres s.res.vLen s.res.resNx s.res.resNy ∧
      PassOk s.cfg s.hres s.res.hLen s.res.resNx s.res.resNy := by
  unfold ScratchOk PassOk
  tauto

/-- A scratch memory with nothing in it (10_state.md R43, 43_vhadd.md R200). -/
theorem passOk_empty (c : Config) (nx ny : Word) : PassOk c [] 0 nx ny := ⟨rfl, Nat.zero_le _, .inl rfl⟩

/-- A computed result: N = NX NY is at most IMG_W IMG_H, below 2^32, so no register truncates it (43_vhadd.md R200). -/
theorem passOk_positionResults {s : State} (hwf : s.cfg.WF) (f : Int → Int → Sample) :
    PassOk s.cfg (positionResults (geometry s) f) (trunc32 (nPositions (geometry s)))
      (trunc32 (nX (geometry s))) (trunc32 (nY (geometry s))) := by
  obtain ⟨-, hw, -, hh, -, -⟩ := hwf
  have hcap : (s.cfg.imgW * s.cfg.imgH : Int) ≤ 65535 * 65535 := by
    exact_mod_cast Nat.mul_le_mul hw hh
  have hx : nX (geometry s) ≤ s.cfg.imgW := nX_le _ (Int.natCast_nonneg _)
  have hy : nY (geometry s) ≤ s.cfg.imgH := nY_le _ (Int.natCast_nonneg _)
  have hn : nPositions (geometry s) ≤ s.cfg.imgW * s.cfg.imgH :=
    nPositions_le _ (Int.natCast_nonneg _) (Int.natCast_nonneg _)
  have hNx := trunc32_toNat _ (nX_nonneg (geometry s)) (by omega)
  have hNy := trunc32_toNat _ (nY_nonneg (geometry s)) (by omega)
  have hN := trunc32_toNat _ (nPositions_nonneg (geometry s)) (by omega)
  refine ⟨?_, ?_, .inr ?_⟩
  · exact_mod_cast (positionResults_length _ f).trans hN.symm
  · exact_mod_cast hN.trans_le hn
  · zify
    rw [hN, hNx, hNy, nPositions]

/-- A successful Calc establishes the scratch invariant. -/
theorem scratchOk_storeResults {s : State} (hwf : s.cfg.WF) (op : VhOp) : ScratchOk (storeResults op s) := by
  rw [scratchOk_iff]
  cases op with
  | calcv => exact ⟨passOk_positionResults hwf _, passOk_empty _ _ _⟩
  | calch => exact ⟨passOk_empty _ _ _, passOk_positionResults hwf _⟩
  | calcvh => exact ⟨passOk_positionResults hwf _, passOk_positionResults hwf _⟩

/-- Every effect keeps the scratch invariant. -/
theorem Effect.scratchOk {i : Instr} {s t : State} (h : Effect i s t) (hwf : s.cfg.WF) (hs : ScratchOk s) :
    ScratchOk t := by
  obtain ⟨hres, hvres, hhres⟩ | ⟨-, op, k, rfl⟩ | ⟨-, rfl⟩ := h.scratch_cases
  · unfold ScratchOk
    rwa [hres, hvres, hhres, h.cfg_eq]
  · exact scratchOk_storeResults hwf op
  · exact (scratchOk_iff _).2 ⟨passOk_empty _ _ _, passOk_empty _ _ _⟩

/-- Settles O43: the ranges of the parameters and the scratch invariant are kept together. -/
theorem scratchInvariantKept : Obligations.ScratchInvariantKept := by
  intro s t hwf hs h
  refine (step_keeps (P := fun s => s.cfg.WF ∧ ScratchOk s) (fun _ _ hs => hs) ?_ h ⟨hwf, hs⟩).2
  exact fun heff ⟨hwf, hs⟩ => ⟨heff.cfg_eq ▸ hwf, heff.scratchOk hwf hs⟩

end Sys2Proof.Machine
end

section
/-! PROOFS. What no command writes, who writes the memories, and the state after reset. -/

namespace Sys2Proof.Machine

open Sys2Proof

/-- Settles O36: a command is a gated body, and no body writes what the host owns. -/
theorem commandsNeverWriteOperands : Obligations.CommandsNeverWriteOperands := by
  intro i hi s t h
  obtain ⟨body, hbody, hframe⟩ := exec_command i hi
  obtain ⟨hcfg, hcap, hops, hsrc, hpending, -⟩ := hframe s
  rw [hbody] at h
  obtain ⟨-, rfl⟩ | ⟨-, rfl⟩ := runGated_cases h
  · exact ⟨rfl, rfl, rfl, rfl, rfl⟩
  · exact ⟨hops, hcap, hsrc, hcfg, hpending⟩

/-- Settles O37, one owner list after the other; a REGW to CMD is excluded, so what carries a command is one. -/
theorem onlyOwnersWriteMemories : Obligations.OnlyOwnersWriteMemories := by
  intro i s t h hcmd
  have heff := exec_effect h
  refine ⟨fun hne => ?_, fun hne => ?_, fun hne => ?_, heff.src_cases.resolve_left, heff.ops_cases.resolve_left⟩
  · obtain ⟨-, hwin, htable⟩ | ⟨hi, -⟩ | ⟨hi, -⟩ := heff.table_cases
    · exact (hne.elim (· htable) (· hwin)).elim
    · exact .inl (hi.mem hcmd)
    · exact .inr hi
  · obtain ⟨hres, hvres, hhres⟩ | ⟨hi, -⟩ | ⟨hi, -⟩ := heff.scratch_cases
    · exact (hne.elim (· hvres) (·.elim (· hhres) (· hres))).elim
    · exact .inl (hi.mem hcmd)
    · exact .inr hi
  · exact (heff.dst_cases.resolve_left hne).imp_left (·.mem hcmd)

/-- Settles O46: at reset TABLE_VALID = 0, nothing is listed, LAST_CODE is OK and CAP is latched. -/
theorem invariantsAtReset : Obligations.InvariantsAtReset := by
  intro c
  have htable : TableOk (State.resetWith c) := fun hvalid => absurd hvalid Bool.false_ne_true
  have hscratch : ScratchOk (State.resetWith c) := (scratchOk_iff _).2 ⟨passOk_empty _ _ _, passOk_empty _ _ _⟩
  have hstatus : StatusOk (State.resetWith c) := by simp [StatusOk, State.resetWith, Status.reset]
  exact ⟨htable, hscratch, hstatus, reset_memories_ok c, rfl, rfl, rfl, by decide⟩

end Sys2Proof.Machine
end

section
/-! PROOFS. Which operands a command reads (10_state.md R45): exchanging the operand and index registers it does not read
commutes with every part of it. -/

namespace Sys2Proof.Machine

open Sys2Proof

/-- The state with other values in the operand and index registers. -/
def setOps (o : OperandRegs) (s : State) : State := { s with ops := o }

section
variable (o : OperandRegs) (s : State)

@[simp] theorem setOps_cfg : (setOps o s).cfg = s.cfg := rfl
@[simp] theorem setOps_cap : (setOps o s).cap = s.cap := rfl
@[simp] theorem setOps_status : (setOps o s).status = s.status := rfl
@[simp] theorem setOps_ops : (setOps o s).ops = o := rfl
@[simp] theorem setOps_win : (setOps o s).win = s.win := rfl
@[simp] theorem setOps_table : (setOps o s).table = s.table := rfl
@[simp] theorem setOps_src : (setOps o s).src = s.src := rfl

end

section
variable {o : OperandRegs} {s : State}

/-- A gated command commutes with the exchange when its body does: the gate reads FAULT only (10_state.md R40). -/
theorem runGated_setOps {body : State → State} (hbody : body (setOps o s) = setOps o (body s)) {t : State}
    (h : runGated body s = .next t) : runGated body (setOps o s) = .next (setOps o t) := by
  obtain ⟨hf, rfl⟩ | ⟨hop, rfl⟩ := runGated_cases h
  · exact runGated_inFault _ _ hf
  · rw [runGated_operating body (setOps o s) hop, hbody]
    rfl

/-! ## CREATE reads WIN_MIN and WIN_MAX (41_lut_create.md R154) -/

theorem createCore_setOps (st : LutStrat) (hmin : o.winMin = s.ops.winMin) (hmax : o.winMax = s.ops.winMax) :
    createCore st (setOps o s) = setOps o (createCore st s) := by
  have hbuild : buildTable (setOps o s) = setOps o (buildTable s) := by simp [buildTable, setOps, hmin, hmax]
  simp only [createCore, setOps_cap, setOps_ops, hmin, hmax, hbuild]
  split
  · rfl
  · split <;> rfl

/-! ## CONVERT reads SRC_BASE, DST_BASE and LENGTH (42_lut_convert.md R170) -/

theorem lookupValue_setOps (x : Sample) :
    lookupValue x (setOps o s) = ((lookupValue x s).1, setOps o (lookupValue x s).2) := by
  simp only [lookupValue, setOps_table]
  split <;> rfl

theorem directValue_setOps (x : Sample) :
    directValue x (setOps o s) = ((directValue x s).1, setOps o (directValue x s).2) := by
  by_cases hw : sext32 s.win.curMin < sext32 s.win.curMax
  · simp [directValue, hw]
  · simp [directValue, hw, drawByte, setOps]

theorem displayValue_setOps (e : LutStrat) (x : Sample) :
    displayValue e x (setOps o s) = ((displayValue e x s).1, setOps o (displayValue e x s).2) :=
  match e with
  | .auto | .scalar | .vec | .gather | .bperm => lookupValue_setOps x
  | .directf | .directi => directValue_setOps x

theorem convertElement_setOps (e : LutStrat) (sa da : Nat) :
    convertElement e sa da (setOps o s) = setOps o (convertElement e sa da s) := by
  simp only [convertElement, setOps_src, displayValue_setOps]
  rfl

theorem convertLoop_setOps (e : LutStrat) (n sa da : Nat) (s : State) :
    convertLoop e n sa da (setOps o s) = setOps o (convertLoop e n sa da s) := by
  induction n generalizing sa da s with
  | zero => rfl
  | succ n ih => rw [convertLoop, convertElement_setOps, ih, convertLoop]

theorem convertCore_setOps (st : LutStrat) (hsrc : o.srcBase = s.ops.srcBase) (hdst : o.dstBase = s.ops.dstBase)
    (hlen : o.length = s.ops.length) : convertCore st (setOps o s) = setOps o (convertCore st s) := by
  have hbounds : convertOutOfBounds (setOps o s) = convertOutOfBounds s := by
    simp only [convertOutOfBounds, setOps_cfg, setOps_ops, hsrc, hdst, hlen]
  simp only [convertCore, setOps_cap, setOps_status, setOps_ops, hbounds, convertLoop_setOps, hsrc, hdst, hlen]
  split
  · rfl
  · split
    · split <;> rfl
    · rfl

/-! ## A Calc reads SRC_BASE, VH_SIZE, OFFSET_X, OFFSET_Y, HEXT and VEXT (43_vhadd.md R191, R200) -/

theorem geometry_setOps (hsize : o.vhSize = s.ops.vhSize) (hox : o.offsetX = s.ops.offsetX)
    (hoy : o.offsetY = s.ops.offsetY) (hhx : o.hext = s.ops.hext) (hvx : o.vext = s.ops.vext) :
    geometry (setOps o s) = geometry s := by
  simp only [geometry, setOps_cfg, setOps_ops, hsize, hox, hoy, hhx, hvx]

theorem sampleAt_setOps (hsrc : o.srcBase = s.ops.srcBase) : sampleAt (setOps o s) = sampleAt s := by
  funext x y
  simp only [sampleAt, setOps_cfg, setOps_src, setOps_ops, hsrc]

/-- Results and bounds are functions of the geometry and of the samples from SRC_BASE on. -/
theorem storeResults_setOps (op : VhOp) (hsrc : o.srcBase = s.ops.srcBase)
    (hgeo : geometry (setOps o s) = geometry s) : storeResults op (setOps o s) = setOps o (storeResults op s) := by
  have hv : vSum (setOps o s) = vSum s := by
    funext x y
    simp only [vSum, hgeo, sampleAt_setOps hsrc]
  have hh : hSum (setOps o s) = hSum s := by
    funext x y
    simp only [hSum, hgeo, sampleAt_setOps hsrc]
  simp only [storeResults, hgeo, hv, hh]
  rfl

theorem calcCore_setOps (op : VhOp) (st : VhStrat) (hsrc : o.srcBase = s.ops.srcBase)
    (hgeo : geometry (setOps o s) = geometry s) (hhx : o.hext = s.ops.hext) (hvx : o.vext = s.ops.vext) :
    calcCore op st (setOps o s) = setOps o (calcCore op st s) := by
  have hbounds : calcOutOfBounds (setOps o s) = calcOutOfBounds s := by
    simp only [calcOutOfBounds, hgeo, setOps_cfg, setOps_ops, hsrc]
  simp only [calcCore, setOps_cap, setOps_ops, hhx, hvx, hbounds, storeResults_setOps op hsrc hgeo]
  split
  · rfl
  · split
    · rfl
    · split <;> rfl

end

/-- The fifteen Calc commands are gated `calcCore`s (43_vhadd.md R201 to R215). -/
theorem exec_calc (i : Instr) (hi : i ∈ calcvCommands ++ calchCommands ++ calcvhCommands) :
    ∃ op st, ∀ s, exec i s = runGated (calcCore op st) s := by
  simp only [List.mem_append] at hi
  obtain (hi | hi) | hi := hi
  · obtain ⟨st, h, -⟩ := exec_calcv i hi; exact ⟨_, st, h⟩
  · obtain ⟨st, h, -⟩ := exec_calch i hi; exact ⟨_, st, h⟩
  · obtain ⟨st, h, -⟩ := exec_calcvh i hi; exact ⟨_, st, h⟩

/-- Settles O38: each operation's body commutes with the exchange of the registers it does not read. -/
theorem unreadOperandsHaveNoEffect : Obligations.UnreadOperandsHaveNoEffect := by
  intro i s t o h hread
  change exec i (setOps o s) = .next (setOps o t)
  obtain ⟨hi, hmin, hmax⟩ | ⟨hi, hsrc, hdst, hlen⟩ | ⟨hi, hsrc, hsize, hox, hoy, hhx, hvx⟩ | rfl := hread
  · obtain ⟨st, hexec, -⟩ := exec_create i hi
    rw [hexec] at h ⊢
    exact runGated_setOps (createCore_setOps st hmin hmax) h
  · obtain ⟨st, hexec, -⟩ := exec_convert i hi
    rw [hexec] at h ⊢
    exact runGated_setOps (convertCore_setOps st hsrc hdst hlen) h
  · obtain ⟨op, st, hexec⟩ := exec_calc i hi
    have hgeo := geometry_setOps hsize hox hoy hhx hvx
    rw [hexec] at h ⊢
    exact runGated_setOps (calcCore_setOps op st hsrc hgeo hhx hvx) h
  · exact runGated_setOps (body := acknowledge) rfl h

end Sys2Proof.Machine
end

section
/-! PROOFS. The register map as the host reads and writes it (10_state.md R23 to R36): the words of the packed registers as
numbers, what a read of each register returns, and the transactions REGR and REGW by register. -/

namespace Sys2Proof.Machine

open Sys2Proof

/-! ## Packed registers as numbers -/

/-- Two fields side by side, as a number. -/
theorem append_toNat {v w : Nat} (x : BitVec v) (y : BitVec w) : (x ++ y).toNat = 2 ^ w * x.toNat + y.toNat := by
  rw [BitVec.toNat_append, ← Nat.shiftLeft_add_eq_or_of_lt y.isLt, Nat.shiftLeft_eq, Nat.mul_comm]

/-- Bits above a field read 0: the register is the field's number. -/
theorem zero_append_toNat (n : Nat) {w : Nat} (x : BitVec w) : (0#n ++ x).toNat = x.toNat := by
  simp

/-- A register word is determined by its number. -/
theorem word_eq_ofNat {w : Word} {n : Nat} (h : w.toNat = n) : w = BitVec.ofNat 32 n := by
  simp [← h]

/-- CAP (10_state.md R24): CAP_MID, CAP_ADV, CAP_BYTE in bits 0, 1, 2. -/
theorem capWord_toNat (c : Cap) : (capWord c).toNat = c.mid.toNat + 2 * c.adv.toNat + 4 * c.byte.toNat := by
  obtain ⟨mid, adv, byte⟩ := c
  revert mid adv byte
  decide

/-- GEOM (10_state.md R26): IMG_W in bits 15:0, IMG_H in bits 31:16. -/
theorem geomWord_toNat {c : Config} (h : c.WF) : (geomWord c).toNat = c.imgW + 65536 * c.imgH := by
  obtain ⟨-, hw, -, hh, -, -⟩ := h
  simp only [geomWord, append_toNat, BitVec.toNat_ofNat]
  omega

/-- The number of a code is the one of 60_exceptions.md R240. -/
theorem codeBits_toNat (c : CompletionCode) : (codeBits c).toNat = codeNumber c := by cases c <;> rfl

/-- STATUS (10_state.md R27). -/
theorem statusWord_toNat (st : Status) :
    (statusWord st).toNat = st.tableValid.toNat + 2 * st.fault.toNat + 4 * st.errSticky.toNat +
      16 * codeNumber st.lastCode + 256 * st.lastStrat.toNat := by
  simp only [statusWord, append_toNat, bit, BitVec.toNat_ofBool, codeBits_toNat, BitVec.toNat_ofNat]
  omega

/-! ## What a read of a register returns -/

section
variable (s : State)

theorem readRegister_cap : readRegister .cap s =
    (BitVec.ofNat 32 (s.cap.mid.toNat + 2 * s.cap.adv.toNat + 4 * s.cap.byte.toNat), s) :=
  Prod.ext (word_eq_ofNat (capWord_toNat s.cap)) rfl

theorem readRegister_geom (h : s.cfg.WF) :
    readRegister .geom s = (BitVec.ofNat 32 (s.cfg.imgW + 65536 * s.cfg.imgH), s) :=
  Prod.ext (word_eq_ofNat (geomWord_toNat h)) rfl

theorem readRegister_status : readRegister .status s =
    (BitVec.ofNat 32 (s.status.tableValid.toNat + 2 * s.status.fault.toNat + 4 * s.status.errSticky.toNat +
      16 * codeNumber s.status.lastCode + 256 * s.status.lastStrat.toNat), s) :=
  Prod.ext (word_eq_ofNat (statusWord_toNat s.status)) rfl

theorem readRegister_tblIdx : readRegister .tblIdx s = (BitVec.ofNat 32 s.ops.tblIdx.toNat, s) :=
  Prod.ext (word_eq_ofNat (zero_append_toNat 16 _)) rfl

end

section
variable {s : State}

/-- TBL_DATA while TABLE_VALID = 1: the entry of TABLE at TBL_IDX (10_state.md R34). -/
theorem readRegister_tblData_entry {v : Byte} (hvalid : s.status.tableValid = true)
    (hv : s.table[s.ops.tblIdx.toNat]? = some v) : readRegister .tblData s = (BitVec.ofNat 32 v.toNat, s) := by
  have hread : readTableByte s = (v, s) := by simp [readTableByte, hvalid, hv]
  simp only [readRegister, hread]
  exact Prod.ext (word_eq_ofNat (zero_append_toNat 24 v)) rfl

/-- TBL_DATA while TABLE_VALID = 0: a fresh unspecified byte (10_state.md R34). -/
theorem readRegister_tblData_free (hvalid : s.status.tableValid = false) :
    readRegister .tblData s = (BitVec.ofNat 32 (drawByte s).1.toNat, (drawByte s).2) := by
  have hread : readTableByte s = drawByte s := by simp [readTableByte, hvalid]
  simp only [readRegister, hread]
  exact Prod.ext (word_eq_ofNat (zero_append_toNat 24 _)) rfl

/-- A scratch memory read below its length (10_state.md R35). -/
theorem readScratchSample_below {entries : List Sample} {len : Word} {v : Sample}
    (hlt : s.ops.resIdx.toNat < len.toNat) (hv : entries[s.ops.resIdx.toNat]? = some v) :
    readScratchSample entries len s = (v, s) := by simp [readScratchSample, hlt, hv]

/-- A scratch memory read at or beyond its length: a fresh unspecified sample (10_state.md R35). -/
theorem readScratchSample_beyond {entries : List Sample} {len : Word} (hge : ¬ s.ops.resIdx.toNat < len.toNat) :
    readScratchSample entries len s = drawSample s := by simp only [readScratchSample, if_neg hge]

theorem readRegister_vresData_entry {v : Sample} (hlt : s.ops.resIdx.toNat < s.res.vLen.toNat)
    (hv : s.vres[s.ops.resIdx.toNat]? = some v) : readRegister .vresData s = (BitVec.ofNat 32 v.toNat, s) := by
  simp only [readRegister, readScratchSample_below hlt hv]
  exact Prod.ext (word_eq_ofNat (zero_append_toNat 16 v)) rfl

theorem readRegister_vresData_free (hge : ¬ s.ops.resIdx.toNat < s.res.vLen.toNat) :
    readRegister .vresData s = (BitVec.ofNat 32 (drawSample s).1.toNat, (drawSample s).2) := by
  simp only [readRegister, readScratchSample_beyond hge]
  exact Prod.ext (word_eq_ofNat (zero_append_toNat 16 _)) rfl

theorem readRegister_hresData_entry {v : Sample} (hlt : s.ops.resIdx.toNat < s.res.hLen.toNat)
    (hv : s.hres[s.ops.resIdx.toNat]? = some v) : readRegister .hresData s = (BitVec.ofNat 32 v.toNat, s) := by
  simp only [readRegister, readScratchSample_below hlt hv]
  exact Prod.ext (word_eq_ofNat (zero_append_toNat 16 v)) rfl

theorem readRegister_hresData_free (hge : ¬ s.ops.resIdx.toNat < s.res.hLen.toNat) :
    readRegister .hresData s = (BitVec.ofNat 32 (drawSample s).1.toNat, (drawSample s).2) := by
  simp only [readRegister, readScratchSample_beyond hge]
  exact Prod.ext (word_eq_ofNat (zero_append_toNat 16 _)) rfl

/-! ## REGR and REGW by register (40_host_transactions.md R131, R132) -/

/-- A REGR answers what the read of the register returns. -/
theorem exec_regr (r : Register) {w : Word} {t : State} (h : readRegister r s = (w, t)) :
    exec (.regr (offsetOf r)) s = .next (answer (.word w) t) := by
  simp only [exec, execRegr, offsetOk_offsetOf, readOffset, registerAt_offsetOf, h, if_true]

/-- The value a REGR returned is the register's. -/
theorem reply_of_exec_regr (r : Register) {t : State} {w : Word} (h : exec (.regr (offsetOf r)) s = .next t)
    (hw : t.reply = .word w) : w = (readRegister r s).1 := by
  rw [exec_regr r (Prod.mk.eta).symm] at h
  obtain rfl := Host.Outcome.next.inj h
  exact (Reply.word.inj hw).symm

/-- A REGW to a register other than CMD writes the operand registers. -/
theorem exec_regw (r : Register) (data : Word) (h : offsetOf r ≠ cmdOffset) :
    exec (.regw (offsetOf r) data) s = .next (answer .nothing { s with ops := writeOperand r data s.ops }) := by
  simp only [exec, execRegw, offsetOk_offsetOf, writeOffset, registerAt_offsetOf, h, if_true, if_false]

end

/-- A reserved offset reads 0 (10_state.md R36). -/
theorem exec_regr_reserved (s : State) {off : BitVec 12} (halign : off.toNat % 4 = 0) (h : 0x70 ≤ off.toNat) :
    exec (.regr off) s = .next (answer (.word 0) s) := by
  simp [exec, execRegr, offsetOk, halign, readOffset, registerAt_reserved off h]

/-- A reserved offset ignores writes (10_state.md R36). -/
theorem exec_regw_reserved (s : State) {off : BitVec 12} (data : Word) (halign : off.toNat % 4 = 0)
    (h : 0x70 ≤ off.toNat) : exec (.regw off data) s = .next (answer .nothing s) := by
  have hcmd : off ≠ cmdOffset := by
    rintro rfl
    exact absurd h (by decide)
  simp [exec, execRegw, offsetOk, halign, hcmd, writeOffset, registerAt_reserved off h]

end Sys2Proof.Machine
end

section
/-! PROOFS. The statements about register access and CAP. -/

namespace Sys2Proof.Machine

open Sys2Proof

/-- Settles O8, register by register in the order of 10_state.md R23. -/
theorem regrRule : Obligations.RegrRule := by
  intro s
  refine ⟨exec_regr .id rfl, exec_regr .cap (readRegister_cap s), fun h => exec_regr .geom (readRegister_geom s h),
    exec_regr .status (readRegister_status s), exec_regr .cmd rfl, exec_regr .winMin rfl, exec_regr .winMax rfl,
    exec_regr .srcBase rfl, exec_regr .dstBase rfl, exec_regr .length rfl, exec_regr .vhSize rfl,
    exec_regr .offsetX rfl, exec_regr .offsetY rfl, exec_regr .hext rfl, exec_regr .vext rfl, exec_regr .curMin rfl,
    exec_regr .curMax rfl, exec_regr .vLen rfl, exec_regr .hLen rfl, exec_regr .resNx rfl, exec_regr .resNy rfl,
    exec_regr .resX0 rfl, exec_regr .resY0 rfl, exec_regr .tblIdx (readRegister_tblIdx s), ?_, ?_,
    exec_regr .resIdx rfl, ?_, ?_, ?_, ?_, fun off halign h => exec_regr_reserved s halign h⟩
  · exact fun v hvalid hv => exec_regr .tblData (readRegister_tblData_entry hvalid hv)
  · exact fun hvalid => ⟨_, exec_regr .tblData (readRegister_tblData_free hvalid)⟩
  · exact fun v hlt hv => exec_regr .vresData (readRegister_vresData_entry hlt hv)
  · exact fun hge => ⟨_, exec_regr .vresData (readRegister_vresData_free hge)⟩
  · exact fun v hlt hv => exec_regr .hresData (readRegister_hresData_entry hlt hv)
  · exact fun hge => ⟨_, exec_regr .hresData (readRegister_hresData_free hge)⟩

/-! ## The index windows (10_state.md R34, R35) -/

/-- A read that makes no draw, made again, leaves the state of the first. -/
theorem exec_regr_again {s : State} (r : Register) {w : Word} (h : readRegister r s = (w, s))
    (hreply : s.reply = .word w) : exec (.regr (offsetOf r)) s = .next s := by
  rw [exec_regr r h, ← hreply]
  rfl

/-- TBL_IDX keeps bits 15:0 of what is written. -/
theorem extractLsb'_low_toNat (data : Word) : (data.extractLsb' 0 16).toNat = data.toNat % 65536 := by
  simp [BitVec.extractLsb'_toNat]

/-- Settles O9: the REGW writes TBL_IDX and nothing TBL_DATA depends on besides. -/
theorem tableIndexWindow : Obligations.TableIndexWindow := by
  intro s data
  have hidx := extractLsb'_low_toNat data
  refine ⟨_, exec_regw .tblIdx data (by decide), ?_, fun v hvalid hv => ?_, fun hvalid => ?_⟩
  · rw [← hidx]
    exact exec_regr .tblIdx (readRegister_tblIdx _)
  · rw [← hidx] at hv
    exact ⟨_, exec_regr .tblData (readRegister_tblData_entry (s := answer _ _) hvalid hv), rfl,
      exec_regr_again .tblData (readRegister_tblData_entry hvalid hv) rfl, hidx⟩
  · refine ⟨_, _, exec_regr .tblData (readRegister_tblData_free hvalid), rfl, ?_⟩
    simp only [BitVec.toNat_ofNat]
    omega

/-- Settles O10: the REGW writes RES_IDX and nothing VRES_DATA and HRES_DATA depend on besides. -/
theorem scratchIndexWindow : Obligations.ScratchIndexWindow := by
  intro s data
  have small (v : Sample) : (BitVec.ofNat 32 v.toNat).toNat < 65536 := by
    simp only [BitVec.toNat_ofNat]
    omega
  refine ⟨_, exec_regw .resIdx data (by decide), exec_regr .resIdx rfl, fun v hlt hv => ?_, fun hge => ?_,
    fun v hlt hv => ?_, fun hge => ?_⟩
  · exact ⟨_, exec_regr .vresData (readRegister_vresData_entry hlt hv), rfl,
      exec_regr_again .vresData (readRegister_vresData_entry hlt hv) rfl⟩
  · exact ⟨_, _, exec_regr .vresData (readRegister_vresData_free hge), rfl, small _⟩
  · exact ⟨_, exec_regr .hresData (readRegister_hresData_entry hlt hv), rfl,
      exec_regr_again .hresData (readRegister_hresData_entry hlt hv) rfl⟩
  · exact ⟨_, _, exec_regr .hresData (readRegister_hresData_free hge), rfl, small _⟩

/-! ## What reads 0 and what ignores writes (10_state.md R36) -/

/-- The read-only registers of 10_state.md R23 ignore writes. -/
theorem exec_regw_readOnly (s : State) (data : Word) {off : BitVec 12}
    (h : off ∈ ([.id, .cap, .geom, .status, .curMin, .curMax, .vLen, .hLen, .resNx, .resNy, .resX0, .resY0, .tblData,
      .vresData, .hresData] : List Register).map offsetOf) :
    exec (.regw off data) s = .next { s with reply := .nothing } := by
  obtain ⟨r, hr, rfl⟩ := List.mem_map.1 h
  have hcmd : offsetOf r ≠ cmdOffset := by
    revert r
    decide
  have hkept : writeOperand r data s.ops = s.ops := by
    simp only [List.mem_cons, List.not_mem_nil, or_false] at hr
    obtain rfl | rfl | rfl | rfl | rfl | rfl | rfl | rfl | rfl | rfl | rfl | rfl | rfl | rfl | rfl := hr <;> rfl
  rw [exec_regw r data hcmd, hkept]
  rfl

/-- Settles O11: no register stands at a reserved offset, a write leaves a read-only register's state alone, and a register
with reserved bits is a number of its fields. -/
theorem reservedReadZeroIgnoreWrites : Obligations.ReservedReadZeroIgnoreWrites := by
  intro s
  refine ⟨fun off => exec_regr_reserved s, fun off data => exec_regw_reserved s data,
    fun off data h => exec_regw_readOnly s data h, fun off t w h hw => ⟨?_, ?_, ?_, ?_, ?_⟩⟩
  · rintro rfl
    have := s.cap.mid.toNat_lt
    have := s.cap.adv.toNat_lt
    have := s.cap.byte.toNat_lt
    simp only [reply_of_exec_regr .cap h hw, readRegister, capWord_toNat]
    omega
  · rintro rfl
    have := s.status.tableValid.toNat_lt
    have := s.status.fault.toNat_lt
    have := s.status.errSticky.toNat_lt
    simp only [reply_of_exec_regr .status h hw, readRegister, statusWord_toNat, ← codeBits_toNat]
    omega
  · rintro rfl
    rw [reply_of_exec_regr .tblIdx h hw, readRegister, zero_append_toNat]
    exact BitVec.isLt _
  · rintro rfl
    rw [reply_of_exec_regr .tblData h hw, readRegister, zero_append_toNat]
    exact BitVec.isLt _
  · rintro (rfl | rfl)
    · rw [reply_of_exec_regr .vresData h hw, readRegister, zero_append_toNat]
      exact BitVec.isLt _
    · rw [reply_of_exec_regr .hresData h hw, readRegister, zero_append_toNat]
      exact BitVec.isLt _

/-! ## Registers that never change (10_state.md R24 to R26) -/

/-- Settles O12: both are functions of the parameters, which no instruction changes. -/
theorem idAndGeomNeverChange : Obligations.IdAndGeomNeverChange := by
  intro i s t hwf h
  have hcfg := exec_cfg h
  have hgeom := readRegister_geom t (hcfg ▸ hwf)
  rw [hcfg] at hgeom
  refine ⟨exec_regr .id rfl, _, exec_regr .geom hgeom, exec_regr .geom (readRegister_geom s hwf), ?_⟩
  obtain ⟨-, hw, -, hh, -, -⟩ := hwf
  simp only [BitVec.toNat_ofNat]
  omega

/-- Every effect keeps CAP at the Capability Oracle's answers (10_state.md R24). -/
theorem Effect.capOk {i : Instr} {s t : State} (h : Effect i s t) (hs : CapOk s) : CapOk t := by
  obtain hcap | ⟨-, ht⟩ := h.cap_cases
  · rw [CapOk, hcap, h.cfg_eq]
    exact hs
  · exact ht

/-- Settles O13: CAP stays what the parameters say, and the parameters stay. -/
theorem capLatchedAtResetOnly : Obligations.CapLatchedAtResetOnly := by
  refine ⟨fun c => rfl, fun s => ⟨_, rfl, rfl⟩, fun s t hs h => ?_, fun s hs => ?_⟩
  · have ht : CapOk t := step_keeps (fun _ _ hs => hs) Effect.capOk h hs
    refine ⟨ht, ?_⟩
    rw [ht, hs, parametersNeverChange s t h]
  · have hread := readRegister_cap s
    rw [hs] at hread
    exact exec_regr .cap hread

end Sys2Proof.Machine
end

section
/-! PROOFS. The form of SRC and DST (20_memory.md R70, R79): what an effect can leave in each memory, and that every such
write stays canonical and inside its space. -/

namespace Sys2Proof.Machine

open Sys2Proof

section
variable {i : Instr} {s t : State}

/-- SRC is kept, or one element inside it is written (40_host_transactions.md R133). -/
theorem Effect.src_written (h : Effect i s t) :
    t.src = s.src ∨ ∃ a v, a < s.cfg.srcWords ∧ t.src = memWrite s.src a v := by
  cases h with
  | wroteSource a v _ ha => exact .inr ⟨a, v, ha, rfl⟩
  | _ => exact .inl (by simp)

/-- DST is kept, one element inside it is written, or it is what the loop of a CONVERT leaves whose spans lie inside their
memories (20_memory.md R73, R74, R79). -/
theorem Effect.dst_written (h : Effect i s t) :
    t.dst = s.dst ∨ (∃ a v, a < s.cfg.dstBytes ∧ t.dst = memWrite s.dst a v) ∨
    (SpansInside s ∧ ∃ e,
      t.dst = (convertLoop e s.ops.length.toNat s.ops.srcBase.toNat s.ops.dstBase.toNat s).dst) := by
  cases h with
  | wroteDestination a v _ ha => exact .inr (.inl ⟨a, v, ha, rfl⟩)
  | converted _ e _ _ _ hspans => exact .inr (.inr ⟨hspans, e, rfl⟩)
  | _ => exact .inl (by simp)

/-- A loop over spans inside their memories keeps the form of DST. An empty span writes nothing, wherever DST_BASE
points (42_lut_convert.md R170 step 3). -/
theorem convertLoop_dst_ok_of_spansInside (e : LutStrat) (hspans : SpansInside s) (hwf : Memory.wf s.dst)
    (hin : Memory.within s.cfg.dstBytes s.dst) :
    Memory.wf (convertLoop e s.ops.length.toNat s.ops.srcBase.toNat s.ops.dstBase.toNat s).dst ∧
      Memory.within s.cfg.dstBytes
        (convertLoop e s.ops.length.toNat s.ops.srcBase.toNat s.ops.dstBase.toNat s).dst := by
  obtain hempty | ⟨-, hdst⟩ := hspans
  · rw [hempty]
    exact ⟨hwf, hin⟩
  · exact convertLoop_dst_ok e _ _ _ _ s hdst hwf hin

/-- Every effect keeps the form of SRC and DST. -/
theorem Effect.memoriesOk (h : Effect i s t) (hs : MemoriesOk s) : MemoriesOk t := by
  obtain ⟨hsrcWf, hsrcIn, hdstWf, hdstIn⟩ := hs
  have hsrc : Memory.wf t.src ∧ Memory.within s.cfg.srcWords t.src := by
    obtain hkept | ⟨a, v, ha, hwrite⟩ := h.src_written
    · rw [hkept]
      exact ⟨hsrcWf, hsrcIn⟩
    · rw [hwrite]
      exact ⟨wf_memWrite _ hsrcWf a v, within_memWrite _ a v ha hsrcIn⟩
  have hdst : Memory.wf t.dst ∧ Memory.within s.cfg.dstBytes t.dst := by
    obtain hkept | ⟨a, v, ha, hwrite⟩ | ⟨hspans, e, hloop⟩ := h.dst_written
    · rw [hkept]
      exact ⟨hdstWf, hdstIn⟩
    · rw [hwrite]
      exact ⟨wf_memWrite _ hdstWf a v, within_memWrite _ a v ha hdstIn⟩
    · rw [hloop]
      exact convertLoop_dst_ok_of_spansInside e hspans hdstWf hdstIn
  rw [MemoriesOk, h.cfg_eq]
  exact ⟨hsrc.1, hsrc.2, hdst⟩

end

/-- Settles O45: every write to SRC or DST is inside its memory, by the check of the transaction (40_host_transactions.md
R138) or the bounds check of CONVERT. -/
theorem memoryFormKept : Obligations.MemoryFormKept :=
  fun _ _ hs h => step_keeps (fun _ _ hs => hs) Effect.memoriesOk h hs

end Sys2Proof.Machine
end

section
/-! PROOFS. The command word (30_encoding.md): `decode` and `encode` are inverse to each other, which words are rows of
the opcode table, and which are illegal. -/

namespace Sys2Proof.Machine

open Sys2Proof

/-! ## Decode and encode (30_encoding.md R101 to R108) -/

/-- The operations with their OP, each with the decoder of its STRAT (30_encoding.md R102 to R104). -/
def stratDecoders : List (BitVec 4 × (Nat → Except IllegalWord Instr)) :=
  [(0x1, decodeCreate), (0x2, decodeConvert), (0x3, decodeCalcv), (0x4, decodeCalch), (0x5, decodeCalcvh),
    (0x6, decodeClrerr)]

/-- A word decodes to a command only if its bits 31:8 are zero and the decoder its OP selects reads that command from its
STRAT. -/
theorem exists_stratDecoder_of_decode {w : Word} {i : Instr} (h : decode w = .ok i) :
    zeroField w = 0#24 ∧ ∃ f, (opField w, f) ∈ stratDecoders ∧ f (stratField w).toNat = .ok i := by
  have selects {op : BitVec 4} {f : Nat → Except IllegalWord Instr} (hf : (op, f) ∈ stratDecoders)
      (hop : (opField w).toNat = op.toNat) (hi : f (stratField w).toNat = .ok i) :
      ∃ f, (opField w, f) ∈ stratDecoders ∧ f (stratField w).toNat = .ok i :=
    ⟨f, BitVec.eq_of_toNat_eq hop ▸ hf, hi⟩
  unfold decode at h
  split at h
  case isFalse => cases h
  case isTrue hzero =>
    refine ⟨hzero, ?_⟩
    split at h
    · next hop => exact selects (op := 0x1) (f := decodeCreate) (by simp [stratDecoders]) hop h
    · next hop => exact selects (op := 0x2) (f := decodeConvert) (by simp [stratDecoders]) hop h
    · next hop => exact selects (op := 0x3) (f := decodeCalcv) (by simp [stratDecoders]) hop h
    · next hop => exact selects (op := 0x4) (f := decodeCalch) (by simp [stratDecoders]) hop h
    · next hop => exact selects (op := 0x5) (f := decodeCalcvh) (by simp [stratDecoders]) hop h
    · next hop => exact selects (op := 0x6) (f := decodeClrerr) (by simp [stratDecoders]) hop h
    · cases h

/-- The command a decoder reads from a STRAT is encoded with the decoder's OP and that STRAT. -/
theorem encode_of_stratDecoder : ∀ p ∈ stratDecoders, ∀ strat : BitVec 4, ∀ i ∈ (p.2 strat.toNat).toOption,
    encode i = some (commandWord p.1 strat) := by decide

/-- The word of a command decodes to it, and a host transaction has no word (30_encoding.md R100). -/
theorem decode_of_encode {i : Instr} {w : Word} (h : encode i = some w) : decode w = .ok i := by
  cases i
  case regw | regr | srcw | srcr | dstw | dstr | reset => cases h
  all_goals
    obtain rfl := Option.some.inj h
    rfl

/-- Settles O2: a word that decodes is composed of its own fields, and each decoder of STRAT is inverse to `encode`. -/
theorem decodeOkIffEncode : Obligations.DecodeOkIffEncode := by
  refine fun w i => ⟨fun h => ?_, decode_of_encode⟩
  obtain ⟨hzero, f, hf, hi⟩ := exists_stratDecoder_of_decode h
  have hmem : i ∈ (f (stratField w).toNat).toOption := by rw [hi]; rfl
  rw [eq_commandWord_of_zeroField w hzero]
  exact encode_of_stratDecoder (opField w, f) hf (stratField w) i hmem

/-! ## The opcode table (30_encoding.md R106) -/

/-- Settles O1: the table's rows are the commands with their encodings. -/
theorem legalWordsTable : Obligations.LegalWordsTable := by
  intro w i
  rw [decodeOkIffEncode w i]
  constructor
  · intro h
    cases i
    case regw | regr | srcw | srcr | dstw | dstr | reset => cases h
    all_goals
      obtain rfl := Option.some.inj h
      decide
  · refine (?rows : ∀ row ∈ (_ : List (Word × Instr)), encode row.2 = some row.1) (w, i)
    decide

/-! ## Illegal words (30_encoding.md R107) -/

/-- CREATE has AUTO, SCALAR, VEC and DIRECTF (30_encoding.md R103). -/
theorem decodeCreate_error_iff : ∀ n, (∃ e, decodeCreate n = .error e) ↔ n = 3 ∨ n = 4 ∨ 6 ≤ n
  | 0 | 1 | 2 | 3 | 4 | 5 | 6 | _ + 7 => by simp [decodeCreate]

/-- CONVERT has the strategies up to DIRECTI (30_encoding.md R103). -/
theorem decodeConvert_error_iff : ∀ n, (∃ e, decodeConvert n = .error e) ↔ 7 ≤ n
  | 0 | 1 | 2 | 3 | 4 | 5 | 6 | _ + 7 => by simp [decodeConvert]

/-- The three Calc operations have the same five strategies (30_encoding.md R104). -/
theorem decodeCalc_error_iff {f : Nat → Except IllegalWord Instr} (hf : f ∈ [decodeCalcv, decodeCalch, decodeCalcvh]) :
    ∀ n, (∃ e, f n = .error e) ↔ 5 ≤ n := by
  simp only [List.mem_cons, List.not_mem_nil, or_false] at hf
  obtain rfl | rfl | rfl := hf
  · rintro (_ | _ | _ | _ | _ | _) <;> simp [decodeCalcv]
  · rintro (_ | _ | _ | _ | _ | _) <;> simp [decodeCalch]
  · rintro (_ | _ | _ | _ | _ | _) <;> simp [decodeCalcvh]

/-- CLRERR has STRAT 0 only (30_encoding.md R104). -/
theorem decodeClrerr_error_iff : ∀ n, (∃ e, decodeClrerr n = .error e) ↔ n ≠ 0
  | 0 | _ + 1 => by simp [decodeClrerr]

/-- A REGW to CMD runs the word (40_host_transactions.md R131). -/
theorem exec_regw_cmd (w : Word) (s : State) : exec (.regw cmdOffset w) s = runCommandWord w s := rfl

/-- A REGW of an illegal word to CMD in the operating condition (30_encoding.md R107, 60_exceptions.md R244). -/
theorem exec_regw_cmd_illegal {w : Word} {e : IllegalWord} (h : decode w = .error e) {s : State} (hs : Operating s) :
    exec (.regw cmdOffset w) s = .next (afterRecoverable .illegalCmd s) := by
  rw [exec_regw_cmd]
  obtain ⟨i, -, hi, -⟩ | ⟨-, -, hrun⟩ := runCommandWord_cases w s
  · cases h.symm.trans hi
  · rw [hrun, runGated_operating _ _ hs, answer_raise_recoverable _ _ rfl rfl]

/-- Settles O3: the branches of `decode` in the order of 30_encoding.md R107. -/
theorem illegalWordsExactly : Obligations.IllegalWordsExactly := by
  refine fun w => ⟨?_, fun s ⟨_, he⟩ hs => exec_regw_cmd_illegal he hs⟩
  unfold decode
  split
  case isFalse hzero =>
    rw [zeroField_eq_zero_iff] at hzero
    exact ⟨fun _ => .inl (by omega), fun _ => ⟨_, rfl⟩⟩
  case isTrue hzero =>
    rw [zeroField_eq_zero_iff] at hzero
    simp only [opField_toNat, stratField_toNat]
    split
    · rw [decodeCreate_error_iff]; omega
    · rw [decodeConvert_error_iff]; omega
    · rw [decodeCalc_error_iff (by simp)]; omega
    · rw [decodeCalc_error_iff (by simp)]; omega
    · rw [decodeCalc_error_iff (by simp)]; omega
    · rw [decodeClrerr_error_iff]; omega
    · simp only [imp_false] at *
      exact ⟨fun _ => by omega, fun _ => ⟨_, rfl⟩⟩

/-! ## Words of the encoding tables (30_encoding.md §2 to §4) -/

/-- Settles O4, word by word. -/
theorem someWordsDecode : Obligations.SomeWordsDecode := by
  unfold Obligations.SomeWordsDecode
  decide

end Sys2Proof.Machine
end

section
/-! PROOFS. The host transactions (40_host_transactions.md): the step that issues one, when it is well formed, REGW, the
accesses to SRC and DST, and RESET. -/

namespace Sys2Proof.Machine

open Sys2Proof

/-! ## A REGW to CMD (40_host_transactions.md R131) -/

section
variable {w : Word} {s : State}

/-- A word written to CMD passes the gate, whether it is a command or not (10_state.md R40). -/
theorem runCommandWord_gated (w : Word) (s : State) : ∃ body, runCommandWord w s = runGated body s := by
  obtain ⟨i, hi, -, hrun⟩ | ⟨e, -, hrun⟩ := runCommandWord_cases w s
  · obtain ⟨body, hbody, -⟩ := exec_command i hi
    exact ⟨body, hrun.trans (hbody s)⟩
  · exact ⟨_, hrun⟩

/-- A REGW of a command's word to CMD is that command. -/
theorem exec_regw_cmd_legal {i : Instr} (h : decode w = .ok i) : exec (.regw cmdOffset w) s = exec i s := by
  obtain ⟨j, -, hj, hrun⟩ | ⟨e, he, -⟩ := runCommandWord_cases w s
  · obtain rfl := Except.ok.inj (h.symm.trans hj)
    exact hrun
  · cases h.symm.trans he

/-- In the FAULT state a REGW to CMD is ignored. -/
theorem exec_regw_cmd_inFault (hs : InFault s) : exec (.regw cmdOffset w) s = .next (answer .nothing s) := by
  obtain ⟨body, hrun⟩ := runCommandWord_gated w s
  rw [exec_regw_cmd, hrun, runGated_inFault _ _ hs]

end

/-! ## Steps (40_host_transactions.md R130) -/

section
variable {s : State}

theorem step_of_pending_cons {t : Transaction} {rest : List Transaction} (h : s.pending = t :: rest) :
    step s = exec (decodeTransaction t) { s with pending := rest } := by simp only [step, h]

theorem step_of_pending_nil (h : s.pending = []) : step s = .next s := by simp only [step, h]

end

/-- Settles O5: a step is `exec` of the first transaction, and a REGW to CMD is the command it carries. -/
theorem stepRunsTransaction : Obligations.StepRunsTransaction :=
  ⟨fun _ _ _ h => step_of_pending_cons h,
    fun _ _ _ _ h hw => (step_of_pending_cons h).trans (exec_regw_cmd_legal hw),
    fun _ h => step_of_pending_nil h⟩

/-! ## Well-formed transactions (40_host_transactions.md R138) -/

/-- No outcome is a fault, so what answers no next state is refused. -/
theorem refused_iff_not_next (o : Host.Outcome State Fault Refusal) :
    (∃ r, o = .refused r) ↔ ¬ ∃ t, o = .next t := by
  cases o with
  | next t => simp
  | fault r => cases r
  | refused r => simp

/-- A transaction behind a check has a meaning exactly when the check holds. -/
theorem checked_next_iff {p : Prop} [Decidable p] {o : Host.Outcome State Fault Refusal} {r : Refusal}
    (ho : ∃ t, o = .next t) : (∃ t, (if p then o else .refused r) = .next t) ↔ p := by
  by_cases hp : p <;> simp [hp, ho]

theorem offsetOk_iff (off : BitVec 12) : offsetOk off = true ↔ off.toNat % 4 = 0 := beq_iff_eq

/-- A REGW has a meaning exactly when its offset is aligned: what a word in CMD does always answers a next state. -/
theorem exec_regw_next_iff (off : BitVec 12) (data : Word) (s : State) :
    (∃ t, exec (.regw off data) s = .next t) ↔ off.toNat % 4 = 0 := by
  refine (checked_next_iff ?_).trans (offsetOk_iff off)
  split
  · obtain ⟨body, hrun⟩ := runCommandWord_gated data s
    exact ⟨_, hrun.trans (runGated_next body s)⟩
  · exact ⟨_, rfl⟩

/-- Settles O6: six transactions check their operand; every command is a gated body, which answers a next state, and so
does RESET. -/
theorem wellFormedExactly : Obligations.WellFormedExactly := by
  refine fun i s => ⟨?_, refused_iff_not_next _⟩
  cases i with
  | regw off data => exact exec_regw_next_iff off data s
  | regr off => exact (checked_next_iff ⟨_, rfl⟩).trans (offsetOk_iff off)
  | srcw | srcr | dstw | dstr => exact checked_next_iff ⟨_, rfl⟩
  | _ => exact iff_of_true ⟨_, rfl⟩ trivial

/-! ## REGW by offset (40_host_transactions.md R131, 10_state.md R23) -/

/-- A register stands at its own offset only. -/
theorem eq_offsetOf_of_registerAt {off : BitVec 12} {r : Register} (h : registerAt off = some r) :
    off = offsetOf r := by
  unfold registerAt at h
  split at h <;> cases h <;> exact BitVec.eq_of_toNat_eq ‹_›

/-- A REGW to an aligned offset other than CMD. -/
theorem exec_regw_aligned {off : BitVec 12} (data : Word) (s : State) (halign : off.toNat % 4 = 0)
    (hcmd : off ≠ cmdOffset) : exec (.regw off data) s = .next (answer .nothing (writeOffset off data s)) := by
  simp only [exec, execRegw, (offsetOk_iff off).2 halign, hcmd, if_true, if_false]

/-- An offset that is neither CMD nor a read-write register's ignores writes: it is read-only or no register's. -/
theorem exec_regw_unwritable {off : BitVec 12} (data : Word) (s : State) (halign : off.toNat % 4 = 0)
    (h : off ∉ ([.cmd, .winMin, .winMax, .srcBase, .dstBase, .length, .vhSize, .offsetX, .offsetY, .hext, .vext,
      .tblIdx, .resIdx] : List Register).map offsetOf) :
    exec (.regw off data) s = .next { s with reply := .nothing } := by
  cases hr : registerAt off with
  | some r =>
    obtain rfl := eq_offsetOf_of_registerAt hr
    refine exec_regw_readOnly s data ?_
    revert h
    cases r <;> decide
  | none =>
    have hcmd : off ≠ cmdOffset := fun hc => h (hc ▸ List.mem_cons_self)
    have hkept : writeOffset off data s = s := by simp only [writeOffset, hr]
    rw [exec_regw_aligned data s halign hcmd, hkept]
    rfl

/-- Bits 15:0 of a word, as the statements write them. -/
theorem extractLsb'_low_eq_ofNat (data : Word) : data.extractLsb' 0 16 = BitVec.ofNat 16 (data.toNat % 65536) := by
  rw [← extractLsb'_low_toNat, BitVec.ofNat_toNat, BitVec.setWidth_eq]

/-- Settles O7: CMD, then the read-write registers in the order of 10_state.md R23, then every other offset. -/
theorem regwRule : Obligations.RegwRule := by
  intro s data
  refine ⟨exec_regw_cmd_inFault, fun _ _ h => exec_regw_cmd_legal h, fun hs _ h => exec_regw_cmd_illegal h hs,
    exec_regw .winMin data (by decide), exec_regw .winMax data (by decide), exec_regw .srcBase data (by decide),
    exec_regw .dstBase data (by decide), exec_regw .length data (by decide), exec_regw .vhSize data (by decide),
    exec_regw .offsetX data (by decide), exec_regw .offsetY data (by decide), exec_regw .hext data (by decide),
    exec_regw .vext data (by decide), ?_, exec_regw .resIdx data (by decide),
    fun _ halign h => exec_regw_unwritable data s halign h⟩
  rw [← extractLsb'_low_eq_ofNat]
  exact exec_regw .tblIdx data (by decide)

/-! ## SRC and DST (40_host_transactions.md R133 to R136) -/

/-- Settles O14: the address passes the check, and a read after the write is `memRead_memWrite`. -/
theorem sourceMemoryAccess : Obligations.SourceMemoryAccess :=
  fun s a v hwf ha => ⟨⟨_, if_pos ha, rfl, fun b => memRead_memWrite s.src hwf a b v⟩, if_pos ha⟩

/-- Settles O15, as O14. -/
theorem destinationMemoryAccess : Obligations.DestinationMemoryAccess :=
  fun s a v hwf ha => ⟨⟨_, if_pos ha, rfl, fun b => memRead_memWrite s.dst hwf a b v⟩, if_pos ha⟩

/-! ## RESET (40_host_transactions.md R137) -/

/-- In the FAULT state no effect but that of RESET writes STATUS: a command is ignored, and no other transaction writes
it (10_state.md R40). -/
theorem Effect.status_of_inFault {i : Instr} {s t : State} (h : Effect i s t) (hs : InFault s) (hi : i ≠ .reset) :
    t.status = s.status := by
  have not_operating : ¬ Operating s := by simp [hs]
  cases h with
  | error _ _ hop | acknowledged _ hop => exact absurd hop not_operating
  | created _ _ hop | converted _ _ _ hop | calculated _ _ _ hop => exact absurd hop not_operating
  | wasReset hreset => exact absurd hreset hi
  | _ => simp

/-- Settles O16: RESET is `resetCore`, and every other instruction keeps the STATUS of the FAULT state. -/
theorem resetRule : Obligations.ResetRule := by
  refine ⟨fun s => ⟨answer .nothing (resetCore s), rfl, rfl⟩, fun i s t hs h hi => ?_⟩
  rw [InFault, (exec_effect h).status_of_inFault hs hi]
  exact hs

end Sys2Proof.Machine
end

section
/-! PROOFS. The remap function F (41_lut_create.md §1): its quotient before the saturation, by what it is at least. -/

namespace Sys2Proof.Machine

open Sys2Proof

/-- 255 n / d rounded half up, before it saturates (41_lut_create.md R150, R151). -/
def roundedRatio (mn mx i : Int) : Int := (510 * (i - mn) + (mx - mn)) / (2 * (mx - mn))

/-- F saturates the rounded ratio to 0 to 255. -/
theorem remap_eq_max_min (mn mx i : Int) : remap mn mx i = max 0 (min (roundedRatio mn mx i) 255) := by
  simp only [remap, clamp, roundedRatio]
  omega

/-- The rounded ratio is the largest v with (2 v - 1) d ≤ 510 n: a tie goes up. -/
theorem le_roundedRatio_iff {mn mx : Int} (h : mn < mx) (i v : Int) :
    v ≤ roundedRatio mn mx i ↔ (2 * v - 1) * (mx - mn) ≤ 510 * (i - mn) := by
  rw [roundedRatio, Int.le_ediv_iff_mul_le (by omega)]
  constructor <;> intro h <;> linarith

/-- The rounded ratio is monotonic in the sample. -/
theorem roundedRatio_mono {mn mx i j : Int} (h : mn < mx) (hij : i ≤ j) :
    roundedRatio mn mx i ≤ roundedRatio mn mx j := by
  rw [le_roundedRatio_iff h]
  have hi := (le_roundedRatio_iff h i _).1 le_rfl
  omega

/-- Settles O17: outside the window the rounded ratio saturates; inside it is in 0 to 255 and F is it. -/
theorem remapRoundsHalfUp : Obligations.RemapRoundsHalfUp := by
  intro mn mx i h
  have hle := le_roundedRatio_iff h i
  rw [remap_eq_max_min]
  refine ⟨fun hmin => ?_, fun hmax => ?_, fun hmin hmax => ?_⟩
  · have hlow : ¬ 1 ≤ roundedRatio mn mx i := by
      rw [hle]
      omega
    omega
  · have hhigh : 255 ≤ roundedRatio mn mx i := by
      rw [hle]
      omega
    omega
  · have hlow : 0 ≤ roundedRatio mn mx i := by
      rw [hle]
      omega
    have hhigh : ¬ 256 ≤ roundedRatio mn mx i := by
      rw [hle]
      omega
    have hF : max 0 (min (roundedRatio mn mx i) 255) = roundedRatio mn mx i := by omega
    rw [hF]
    refine ⟨(hle _).1 le_rfl, ?_⟩
    have hnext := mt (hle (roundedRatio mn mx i + 1)).2 (by omega)
    linarith

/-- Settles O18: saturating keeps the order. -/
theorem remapMonotone : Obligations.RemapMonotone := by
  intro mn mx i j h hij
  refine ⟨(remap_range mn mx i).1, ?_, (remap_range mn mx j).2⟩
  have hmono := roundedRatio_mono h hij
  rw [remap_eq_max_min, remap_eq_max_min]
  omega

end Sys2Proof.Machine
end

section
/-! PROOFS. How an operation's command ends (60_exceptions.md R250): the order of checks said once for CREATE, CONVERT and
the three Calcs, whatever the operation does when every check passes. -/

namespace Sys2Proof.Machine

open Sys2Proof

/-- Steps 3 to 6 of R250: the capability, the operand and bounds checks, OK. `done` is the state the operation works out
from `s`. -/
def completion (i : Instr) (done s : State) : State :=
  if strategySupported i s.cap = false then raise .capMismatch s
  else if operandCode i s = .ok then succeed (executedStrategy i s.cap) done
  else raise (operandCode i s) s

section
variable {i : Instr} {done s : State}

theorem completion_unsupported (h : strategySupported i s.cap = false) :
    completion i done s = raise .capMismatch s := if_pos h

theorem completion_failed (c : CompletionCode) (hsup : strategySupported i s.cap = true) (hcode : operandCode i s = c)
    (hc : c ≠ .ok) : completion i done s = raise c s := by simp [completion, hsup, hcode, hc]

theorem completion_ok (hsup : strategySupported i s.cap = true) (hcode : operandCode i s = .ok) :
    completion i done s = succeed (executedStrategy i s.cap) done := by simp [completion, hsup, hcode]

/-- The one code a command reports (60_exceptions.md R250). -/
theorem completion_lastCode : (completion i done s).status.lastCode =
    if strategySupported i s.cap = false then .capMismatch else operandCode i s := by
  unfold completion
  split
  · rfl
  · split
    · next hcode => exact hcode.symm
    · rfl

/-- The checks of the operands and of the bounds report no mismatch. -/
theorem operandCode_ne_capMismatch (i : Instr) (s : State) : operandCode i s ≠ .capMismatch := by
  unfold operandCode
  split_ifs <;> nofun

/-- A command ends with CAP_MISMATCH exactly when its strategy is not supported. -/
theorem completion_capMismatch_iff :
    (completion i done s).status.lastCode = .capMismatch ↔ strategySupported i s.cap = false := by
  rw [completion_lastCode]
  split
  · next hsup => exact iff_of_true rfl hsup
  · next hsup => exact iff_of_false (operandCode_ne_capMismatch i s) hsup

/-- A command that ends with OK has passed every check. -/
theorem completion_eq_of_ok (h : (completion i done s).status.lastCode = .ok) :
    strategySupported i s.cap = true ∧ operandCode i s = .ok ∧
      completion i done s = succeed (executedStrategy i s.cap) done := by
  rw [completion_lastCode] at h
  split at h
  · cases h
  · next hsup =>
    rw [Bool.not_eq_false] at hsup
    exact ⟨hsup, h, completion_ok hsup h⟩

end

/-! ## Strategies that resolve to none and to one that runs -/

section
variable {α : Type} {sup : Bool} {r : Option α} {code : α → BitVec 4} {k : BitVec 4}

theorem Resolves.unsupported (h : Resolves sup r code k) (hr : r = none) : sup = false := by
  obtain ⟨hsup, -⟩ | ⟨-, e, he, -⟩ := h
  · exact hsup
  · cases hr.symm.trans he

theorem Resolves.supported {e : α} (h : Resolves sup r code k) (hr : r = some e) :
    sup = true ∧ code e = k := by
  obtain ⟨-, hn⟩ | ⟨hsup, e', he, hk⟩ := h
  · cases hn.symm.trans hr
  · obtain rfl := Option.some.inj (he.symm.trans hr)
    exact ⟨hsup, hk⟩

end

/-! ## The operand and bounds checks of each operation -/

section
variable {i : Instr} (s : State)

theorem operandCode_create (hi : i ∈ createCommands) :
    operandCode i s = if WindowOk s then .ok else .invalidWindow := if_pos hi

theorem operandCode_convert (hi : i ∈ convertCommands) :
    operandCode i s =
      if s.status.tableValid = false then .tableNotBuilt else if SpansInside s then .ok else .outOfBounds := by
  have hcreate : ∀ j ∈ convertCommands, j ∉ createCommands := by decide
  rw [operandCode, if_neg (hcreate i hi), if_pos hi]

theorem operandCode_calc (hi : i ∈ calcvCommands ++ calchCommands ++ calcvhCommands) :
    operandCode i s = if ¬ ExtentsOk s then .badGeometry else if WindowsInside s then .ok else .outOfBounds := by
  have hlut : ∀ j ∈ calcvCommands ++ calchCommands ++ calcvhCommands, j ∉ createCommands ∧ j ∉ convertCommands := by
    decide
  rw [operandCode, if_neg (hlut i hi).1, if_neg (hlut i hi).2, if_pos hi]

end

/-! ## The commands, by operation -/

/-- The commands of a Calc (30_encoding.md R104). -/
def calcCommands (op : VhOp) : List Instr :=
  match op with
  | .calcv => calcvCommands
  | .calch => calchCommands
  | .calcvh => calcvhCommands

theorem calcCommands_subset (op : VhOp) : calcCommands op ⊆ calcvCommands ++ calchCommands ++ calcvhCommands := by
  cases op <;> decide

theorem exec_calcCommand (op : VhOp) {i : Instr} (hi : i ∈ calcCommands op) :
    ∃ st, (∀ s, exec i s = runGated (calcCore op st) s) ∧
      ∀ c, Resolves (strategySupported i c) (resolveVh op st c) vhCode (executedStrategy i c) :=
  match op with
  | .calcv => exec_calcv i hi
  | .calch => exec_calch i hi
  | .calcvh => exec_calcvh i hi

/-- The operations with strategies (30_encoding.md R102). -/
inductive Operation where
  | create
  | convert
  | vh (op : VhOp)

/-- The commands of an operation. -/
def Operation.commands (o : Operation) : List Instr :=
  match o with
  | .create => createCommands
  | .convert => convertCommands
  | .vh op => calcCommands op

/-- A command belongs to an operation or is CLRERR. -/
theorem mem_operation_or_clrerr {i : Instr} (hi : i ∈ allCommands) : (∃ o : Operation, i ∈ o.commands) ∨ i = .clrerr := by
  simp only [allCommands, List.mem_append, List.mem_singleton] at hi
  obtain ((((hi | hi) | hi) | hi) | hi) | hi := hi
  · exact .inl ⟨.create, hi⟩
  · exact .inl ⟨.convert, hi⟩
  · exact .inl ⟨.vh .calcv, hi⟩
  · exact .inl ⟨.vh .calch, hi⟩
  · exact .inl ⟨.vh .calcvh, hi⟩
  · exact .inr hi

/-! ## Each operation's commands in the operating condition -/

section
variable {i : Instr} {s : State}

/-- CREATE (41_lut_create.md R154). -/
theorem exec_create_completion (hi : i ∈ createCommands) (hs : Operating s) :
    exec i s = .next (answer .nothing (completion i (buildTable s) s)) := by
  obtain ⟨st, hexec, hres⟩ := exec_create i hi
  rw [hexec, runGated_operating _ _ hs]
  obtain ⟨hr, hcore⟩ | ⟨e, hr, hw, hcore⟩ | ⟨e, hr, hw, hcore⟩ := createCore_cases st s <;> rw [hcore]
  · rw [completion_unsupported ((hres _).unsupported hr)]
  · rw [completion_failed .invalidWindow ((hres _).supported hr).1 (by rw [operandCode_create s hi, if_neg hw]) nofun]
  · obtain ⟨hsup, hk⟩ := (hres _).supported hr
    rw [completion_ok hsup (by rw [operandCode_create s hi, if_pos hw]), hk]

/-- CONVERT (42_lut_convert.md R170), by some strategy. -/
theorem exec_convert_completion (hi : i ∈ convertCommands) (hs : Operating s) :
    ∃ e, exec i s = .next (answer .nothing (completion i
      (convertLoop e s.ops.length.toNat s.ops.srcBase.toNat s.ops.dstBase.toNat s) s)) := by
  obtain ⟨st, hexec, hres, -⟩ := exec_convert i hi
  simp only [hexec, runGated_operating _ _ hs]
  obtain ⟨hr, hcore⟩ | ⟨e, hr, hv, hcore⟩ | ⟨e, hr, hv, hb, hcore⟩ | ⟨e, hr, hv, hb, hcore⟩ :=
    convertCore_cases st s <;> rw [hcore]
  · exact ⟨.auto, by rw [completion_unsupported ((hres _).unsupported hr)]⟩
  · exact ⟨e, by rw [completion_failed .tableNotBuilt ((hres _).supported hr).1
      (by rw [operandCode_convert s hi, if_pos hv]) nofun]⟩
  · exact ⟨e, by rw [completion_failed .outOfBounds ((hres _).supported hr).1
      (by rw [operandCode_convert s hi, hv, if_neg nofun, if_neg hb]) nofun]⟩
  · obtain ⟨hsup, hk⟩ := (hres _).supported hr
    exact ⟨e, by rw [completion_ok hsup (by rw [operandCode_convert s hi, hv, if_neg nofun, if_pos hb]), hk]⟩

/-- A Calc (43_vhadd.md R200). -/
theorem exec_calc_completion (op : VhOp) (hi : i ∈ calcCommands op) (hs : Operating s) :
    exec i s = .next (answer .nothing (completion i (storeResults op s) s)) := by
  obtain ⟨st, hexec, hres⟩ := exec_calcCommand op hi
  have hcode := operandCode_calc s (calcCommands_subset op hi)
  rw [hexec, runGated_operating _ _ hs]
  obtain ⟨hr, hcore⟩ | ⟨e, hr, hx, hcore⟩ | ⟨e, hr, hx, hb, hcore⟩ | ⟨e, hr, hx, hb, hcore⟩ :=
    calcCore_cases op st s <;> rw [hcore]
  · rw [completion_unsupported ((hres _).unsupported hr)]
  · rw [completion_failed .badGeometry ((hres _).supported hr).1 (by rw [hcode, if_pos hx]) nofun]
  · rw [completion_failed .outOfBounds ((hres _).supported hr).1
      (by rw [hcode, if_neg (not_not.2 hx), if_neg hb]) nofun]
  · obtain ⟨hsup, hk⟩ := (hres _).supported hr
    rw [completion_ok hsup (by rw [hcode, if_neg (not_not.2 hx), if_pos hb]), hk]

/-- Every command but CLRERR ends as R250 says. -/
theorem exec_completion (hi : i ∈ allCommands) (hclrerr : i ≠ .clrerr) (hs : Operating s) :
    ∃ done, exec i s = .next (answer .nothing (completion i done s)) := by
  obtain ⟨o, ho⟩ := (mem_operation_or_clrerr hi).resolve_right hclrerr
  cases o with
  | create => exact ⟨_, exec_create_completion ho hs⟩
  | convert => exact (exec_convert_completion ho hs).imp' _ fun _ => id
  | vh op => exact ⟨_, exec_calc_completion op ho hs⟩

end

end Sys2Proof.Machine
end

section
/-! PROOFS. CREATE, the capability gate of the LUT strategies and the auto-dispatch (41_lut_create.md §2 and §3). -/

namespace Sys2Proof.Machine

open Sys2Proof

/-- Settles O21: the three ends of a command; the table is `remapTable`. -/
theorem createRule : Obligations.CreateRule := by
  intro i hi s hs
  rw [exec_create_completion hi hs]
  refine ⟨fun hsup => ?_, fun hsup hw => ?_, fun hsup hw => ?_⟩
  · rw [completion_unsupported hsup, answer_raise_fatal _ _ rfl rfl]
  · rw [completion_failed .invalidWindow hsup (by rw [operandCode_create s hi, if_neg hw]) nofun,
      answer_raise_recoverable _ _ rfl rfl]
  · rw [completion_ok hsup (by rw [operandCode_create s hi, if_pos hw])]
    exact ⟨_, rfl, rfl, remapTable_length _ _, remapTable_getElem? _ _⟩

/-- In the operating condition a command ends with CAP_MISMATCH exactly when its strategy is not supported. -/
theorem exec_eq_capMismatch_iff {i : Instr} {s : State} (hi : i ∈ allCommands) (hclrerr : i ≠ .clrerr)
    (hs : Operating s) : exec i s = .next (afterFatal .capMismatch s) ↔ strategySupported i s.cap = false := by
  obtain ⟨done, hexec⟩ := exec_completion hi hclrerr hs
  rw [hexec]
  constructor
  · intro h
    exact completion_capMismatch_iff.1 (congrArg (fun t : State => t.status.lastCode) (Host.Outcome.next.inj h))
  · intro hsup
    rw [completion_unsupported hsup, answer_raise_fatal _ _ rfl rfl]

/-- Settles O19: what each command's strategy needs is `strategySupported`. -/
theorem lutCapabilityGate : Obligations.LutCapabilityGate := by
  intro s hs
  have gate (i : Instr) (hi : i ∈ allCommands) (hclrerr : i ≠ .clrerr) :=
    exec_eq_capMismatch_iff hi hclrerr hs
  have any_absent : (s.cap.mid || s.cap.adv || s.cap.byte) = false ↔
      s.cap.mid = false ∧ s.cap.adv = false ∧ s.cap.byte = false := by
    rw [Bool.or_eq_false_iff, Bool.or_eq_false_iff, and_assoc]
  exact ⟨fun h => absurd ((gate .createScalar (by decide) nofun).1 h) nofun,
    fun h => absurd ((gate .convertScalar (by decide) nofun).1 h) nofun,
    gate .createVec (by decide) nofun, gate .convertVec (by decide) nofun,
    gate .convertGather (by decide) nofun, gate .convertBperm (by decide) nofun,
    (gate .createDirectf (by decide) nofun).trans any_absent,
    (gate .convertDirectf (by decide) nofun).trans any_absent,
    (gate .convertDirecti (by decide) nofun).trans any_absent⟩

/-- Settles O20: AUTO is supported whatever CAP holds, and a command that ends with OK leaves `executedStrategy`. -/
theorem autoDispatch : Obligations.AutoDispatch := by
  intro i s t hi hs h
  have hauto : ∀ j ∈ ([.createAuto, .convertAuto, .calcvAuto, .calchAuto, .calcvhAuto] : List Instr),
      j ∈ allCommands ∧ j ≠ .clrerr := by decide
  have hsup : strategySupported i s.cap = true := by
    revert i
    simp [strategySupported]
  obtain ⟨done, hexec⟩ := exec_completion (hauto i hi).1 (hauto i hi).2 hs
  obtain rfl := Host.Outcome.next.inj (hexec.symm.trans h)
  refine ⟨fun hcode => ?_, fun hcode => ?_⟩
  · exact absurd (completion_capMismatch_iff.1 hcode) (by simp [hsup])
  · obtain ⟨-, -, hdone⟩ := completion_eq_of_ok hcode
    simp only [hdone, answer_status, succeed_status, statusOnSuccess_lastStrat]
    refine ⟨?_, ?_, ?_, ?_⟩
    · rintro rfl
      simp only [executedStrategy, Bool.cond_eq_ite, Bool.or_eq_true]
    · rintro rfl
      simp only [executedStrategy, Bool.cond_eq_ite]
    · rintro rfl
      simp only [executedStrategy, Bool.cond_eq_ite]
    · rintro (rfl | rfl) <;> simp only [executedStrategy, Bool.cond_eq_ite]

end Sys2Proof.Machine
end

section
/-! PROOFS. What each operation works out does not depend on the strategy (41_lut_create.md R161, 42_lut_convert.md R181,
43_vhadd.md R217), and working it out again changes nothing (R162, R182, R218). -/

namespace Sys2Proof.Machine

open Sys2Proof

/-! ## The loop of CONVERT, whatever its values are -/

/-- The loop keeps the canonical form of DST, wherever it writes. -/
theorem wf_convertLoop_dst (e : LutStrat) (n sa da : Nat) {s : State} (hwf : Memory.wf s.dst) :
    Memory.wf (convertLoop e n sa da s).dst := by
  induction n generalizing sa da s with
  | zero => exact hwf
  | succ n ih =>
    refine ih (sa + 1) (da + 1) ?_
    rw [convertElement, displayValue_state]
    exact wf_memWrite _ hwf _ _

/-- The loop changes nothing in a state that it has left, since it reads SRC and the table or the window and never DST
(42_lut_convert.md R182). -/
theorem convertLoop_eq_self_of_dst_eq (e : LutStrat) (n sa da : Nat) {s t : State} (hvalues : ValuesStated s)
    (hwf : Memory.wf s.dst) (htable : t.table = s.table) (hwin : t.win = s.win) (hsrc : t.src = s.src)
    (hdst : t.dst = (convertLoop e n sa da s).dst) : convertLoop e n sa da t = t := by
  have hwft : Memory.wf t.dst := hdst ▸ wf_convertLoop_dst e n sa da hwf
  have hvaluest : ValuesStated t := by rwa [ValuesStated, htable, hwin]
  have hvalue (x : Sample) : statedValue e x t = statedValue e x s := by simp only [statedValue, htable, hwin]
  obtain ⟨-, hread⟩ := convertLoop_stated e n sa da s hvalues hwf
  obtain ⟨hstate, hreadt⟩ := convertLoop_stated e n sa da t hvaluest hwft
  have hsame : (convertLoop e n sa da t).dst = t.dst := by
    refine memory_ext _ _ (wf_convertLoop_dst e n sa da hwft) hwft fun a => ?_
    rw [hreadt a, hvalue, hsrc, hdst, hread a]
    split <;> rfl
  rw [hstate, hsame]

/-! ## CONVERT with the table invariant (42_lut_convert.md R171) -/

section
variable {s : State}

/-- A valid table leaves no element's value free. -/
theorem valuesStated_of_tableOk (hs : TableOk s) (hvalid : s.status.tableValid = true) : ValuesStated s := by
  obtain ⟨hwin, hlength, -⟩ := hs hvalid
  exact ⟨hlength, hwin⟩

/-- With a valid table every strategy's value is F of the latched window. -/
theorem statedValue_of_tableOk (hs : TableOk s) (hvalid : s.status.tableValid = true) (e : LutStrat) (x : Sample) :
    statedValue e x s = remapByte (sext32 s.win.curMin) (sext32 s.win.curMax) (x.toNat : Int) := by
  obtain ⟨-, -, hentries⟩ := hs hvalid
  cases e with
  | directf | directi => rfl
  | auto | scalar | vec | gather | bperm =>
    rw [statedValue, hentries x.toNat x.isLt]
    rfl

/-- With a valid table one turn of the loop writes F of the latched window at the sample. -/
theorem convertElement_of_tableOk (hs : TableOk s) (hvalid : s.status.tableValid = true) (e : LutStrat) (sa da : Nat) :
    convertElement e sa da s = { s with
      dst := memWrite s.dst da
        (remapByte (sext32 s.win.curMin) (sext32 s.win.curMax) ((memRead s.src sa).toNat : Int)) } := by
  rw [convertElement, displayValue_stated e _ s (valuesStated_of_tableOk hs hvalid), statedValue_of_tableOk hs hvalid]

/-- With a valid table the loop leaves the same state under any two strategies. -/
theorem convertLoop_strategy_independent (hs : TableOk s) (hvalid : s.status.tableValid = true) (e e' : LutStrat)
    (n sa da : Nat) : convertLoop e n sa da s = convertLoop e' n sa da s := by
  induction n generalizing sa da s with
  | zero => rfl
  | succ n ih =>
    rw [convertLoop, convertLoop, convertElement_of_tableOk hs hvalid, convertElement_of_tableOk hs hvalid]
    apply ih
    exacts [hs, hvalid]

end

/-! ## What an operation works out -/

/-- What an operation works out, by the simplest strategy. -/
def Operation.perform (o : Operation) (s : State) : State :=
  match o with
  | .create => buildTable s
  | .convert => convertLoop .scalar s.ops.length.toNat s.ops.srcBase.toNat s.ops.dstBase.toNat s
  | .vh op => storeResults op s

section
variable (o : Operation) (s : State)

@[simp] theorem Operation.perform_cap : (o.perform s).cap = s.cap := by cases o <;> simp [perform]
@[simp] theorem Operation.perform_fault : (o.perform s).status.fault = s.status.fault := by cases o <;> simp [perform]

end

section
variable {i : Instr} {s : State}

/-- A CONVERT that passes its checks has a valid table. -/
theorem tableValid_of_operandCode_ok (hi : i ∈ convertCommands) (h : operandCode i s = .ok) :
    s.status.tableValid = true := by
  rw [operandCode_convert s hi] at h
  split at h
  · cases h
  · next hvalid => exact eq_true_of_ne_false hvalid

/-- With the table invariant every command of an operation ends as R250 says, with the same state worked out. -/
theorem exec_operation (o : Operation) (hi : i ∈ o.commands) (hs : Operating s) (htable : TableOk s) :
    exec i s = .next (answer .nothing (completion i (o.perform s) s)) := by
  cases o with
  | create => exact exec_create_completion hi hs
  | convert =>
    obtain ⟨e, hexec⟩ := exec_convert_completion hi hs
    rw [hexec, completion, completion]
    split
    · rfl
    · split
      · next hcode =>
        rw [convertLoop_strategy_independent htable (tableValid_of_operandCode_ok hi hcode) e .scalar]
        rfl
      · rfl
  | vh op => exact exec_calc_completion op hi hs

end

/-- Settles O39: the strategy stands in LAST_STRAT only. -/
theorem strategiesAgree : Obligations.StrategiesAgree := by
  intro op hop i hi j hj s t u hs htable _ ht hu htok huok
  obtain ⟨o, rfl⟩ : ∃ o : Operation, op = o.commands := by
    simp only [List.mem_cons, List.not_mem_nil, or_false] at hop
    obtain rfl | rfl | rfl | rfl | rfl := hop
    exacts [⟨.create, rfl⟩, ⟨.convert, rfl⟩, ⟨.vh .calcv, rfl⟩, ⟨.vh .calch, rfl⟩, ⟨.vh .calcvh, rfl⟩]
  obtain rfl := Host.Outcome.next.inj ((exec_operation o hi hs htable).symm.trans ht)
  obtain rfl := Host.Outcome.next.inj ((exec_operation o hj hs htable).symm.trans hu)
  obtain ⟨-, -, ht⟩ := completion_eq_of_ok htok
  obtain ⟨-, -, hu⟩ := completion_eq_of_ok huok
  rw [ht, hu]
  rfl

/-! ## A command issued again -/

section
variable {i : Instr} {s : State}

/-- In the FAULT state a command is ignored (10_state.md R40). -/
theorem exec_command_inFault (hi : i ∈ allCommands) (hs : InFault s) : exec i s = .next (answer .nothing s) := by
  obtain ⟨body, hbody, -⟩ := exec_command i hi
  rw [hbody, runGated_inFault _ _ hs]

/-- An error raised again writes what STATUS holds already. -/
theorem answer_raise_again (c : CompletionCode) (s : State) :
    answer .nothing (raise c (answer .nothing (raise c s))) = answer .nothing (raise c s) := by
  simp [answer, raise, statusOnError]

/-- The checks of an operation read nothing that it writes. -/
theorem operandCode_perform (o : Operation) (hi : i ∈ o.commands) (k : BitVec 4) :
    operandCode i (answer .nothing (succeed k (o.perform s))) = operandCode i s := by
  cases o with
  | create =>
    rw [operandCode_create _ hi, operandCode_create _ hi]
    rfl
  | convert =>
    rw [operandCode_convert _ hi, operandCode_convert _ hi]
    simp [SpansInside, Operation.perform]
  | vh op => rfl

/-- CONVERT worked out again from the state it completed in leaves that state. -/
theorem perform_convert_again {t : State} {k : BitVec 4} (hvalues : ValuesStated s) (hwf : Memory.wf s.dst)
    (ht : t = answer .nothing (succeed k (Operation.convert.perform s))) : Operation.convert.perform t = t := by
  obtain ⟨hops, htable, hwin, hsrc⟩ : t.ops = s.ops ∧ t.table = s.table ∧ t.win = s.win ∧ t.src = s.src := by
    simp [ht, Operation.perform]
  rw [Operation.perform, hops]
  exact convertLoop_eq_self_of_dst_eq .scalar _ _ _ hvalues hwf htable hwin hsrc (by rw [ht]; rfl)

/-- An operation completed again in the state it completed in leaves that state. -/
theorem answer_succeed_perform_again (o : Operation) (hi : i ∈ o.commands) (hcode : operandCode i s = .ok)
    (htable : TableOk s) (hwf : Memory.wf s.dst) (k : BitVec 4) :
    answer .nothing (succeed k (o.perform (answer .nothing (succeed k (o.perform s))))) =
      answer .nothing (succeed k (o.perform s)) := by
  cases o with
  | create => rfl
  | convert =>
    have hvalues := valuesStated_of_tableOk htable (tableValid_of_operandCode_ok hi hcode)
    rw [perform_convert_again hvalues hwf rfl]
    rfl
  | vh op => rfl

/-- A command that failed a check fails it again, or finds the FAULT state. -/
theorem exec_after_failed (o : Operation) (hi : i ∈ o.commands) (hall : i ∈ allCommands) (hs : Operating s)
    (htable : TableOk s) (hsup : strategySupported i s.cap = true) {c : CompletionCode} (hcode : operandCode i s = c)
    (hc : c ≠ .ok) : exec i (answer .nothing (raise c s)) = .next (answer .nothing (raise c s)) := by
  cases hfatal : isFatal c with
  | true => exact exec_command_inFault hall (by simp [InFault, hfatal])
  | false =>
    have hop : Operating (answer .nothing (raise c s)) := by simp [Operating, hs, hfatal]
    rw [exec_operation o hi hop htable, completion_failed (s := answer .nothing (raise c s)) c hsup hcode hc,
      answer_raise_again]

/-- A command that completed completes again. -/
theorem exec_after_succeeded (o : Operation) (hi : i ∈ o.commands) (hs : Operating s) (htable : TableOk s)
    (hwf : Memory.wf s.dst) (hsup : strategySupported i s.cap = true) (hcode : operandCode i s = .ok) {t : State}
    (ht : t = answer .nothing (succeed (executedStrategy i s.cap) (o.perform s))) (htablet : TableOk t) :
    exec i t = .next t := by
  have hcap : t.cap = s.cap := by simp [ht]
  have hop : Operating t := by simp [Operating, ht, hs]
  have hcodet : operandCode i t = .ok := by rw [ht, operandCode_perform o hi, hcode]
  rw [exec_operation o hi hop htablet, completion_ok (by rwa [hcap]) hcodet, hcap, ht,
    answer_succeed_perform_again o hi hcode htable hwf]

end

/-- Settles O40: a fatal code leaves the FAULT state; after every other end the checks give the same code, and what is then
written stands there already. -/
theorem commandsAreIdempotent : Obligations.CommandsAreIdempotent := by
  intro i hi s t htable ⟨_, _, hwf, _⟩ h
  have htablet := (exec_effect h).tableOk htable
  by_cases hs : Operating s
  case neg =>
    have hf : InFault s := eq_true_of_ne_false hs
    obtain rfl := Host.Outcome.next.inj ((exec_command_inFault hi hf).symm.trans h)
    exact exec_command_inFault hi hf
  obtain ⟨o, ho⟩ | rfl := mem_operation_or_clrerr hi
  · obtain rfl := Host.Outcome.next.inj ((exec_operation o ho hs htable).symm.trans h)
    by_cases hsup : strategySupported i s.cap = true
    · by_cases hcode : operandCode i s = .ok
      · exact exec_after_succeeded o ho hs htable hwf hsup hcode (by rw [completion_ok hsup hcode]) htablet
      · rw [completion_failed _ hsup rfl hcode]
        exact exec_after_failed o ho hi hs htable hsup rfl hcode
    · rw [completion_unsupported (eq_false_of_ne_true hsup)]
      exact exec_command_inFault hi (by simp [InFault, isFatal])
  · obtain rfl := Host.Outcome.next.inj ((runGated_operating acknowledge s hs).symm.trans h)
    exact runGated_operating acknowledge _ hs

end Sys2Proof.Machine
end

section
/-! PROOFS. CONVERT (42_lut_convert.md): its three errors, what it leaves in DST, the agreement of lookup and direct
recomputation (R171), and the law of CREATE.AUTO then CONVERT.AUTO (R183). -/

namespace Sys2Proof.Machine

open Sys2Proof

/-! ## The value of an element (42_lut_convert.md R170 step 4) -/

section
variable {e : LutStrat}

/-- A direct strategy recomputes F of the latched window. -/
theorem statedValue_direct (he : e = .directf ∨ e = .directi) (x : Sample) (s : State) :
    statedValue e x s = remapByte (sext32 s.win.curMin) (sext32 s.win.curMax) (x.toNat : Int) := by
  obtain rfl | rfl := he <;> rfl

/-- A table strategy's value is the entry of a full table. -/
theorem table_getElem?_eq_statedValue (he : ¬ (e = .directf ∨ e = .directi)) (x : Sample) {s : State}
    (hlength : s.table.length = 65536) : s.table[x.toNat]? = some (statedValue e x s) := by
  have hx : x.toNat < s.table.length := hlength ▸ x.isLt
  cases e with
  | directf => exact absurd (.inl rfl) he
  | directi => exact absurd (.inr rfl) he
  | auto | scalar | vec | gather | bperm => simp [statedValue, hx]

end

/-! ## DST after the loop, by element -/

section
variable {s : State} (hvalues : ValuesStated s) (hwf : Memory.wf s.dst)
include hvalues hwf

theorem memRead_convertLoop_inside (e : LutStrat) (sa da : Nat) {n k : Nat} (hk : k < n) :
    memRead (convertLoop e n sa da s).dst (da + k) = statedValue e (memRead s.src (sa + k)) s := by
  rw [(convertLoop_stated e n sa da s hvalues hwf).2, if_pos (by omega), Nat.add_sub_cancel_left]

theorem memRead_convertLoop_outside (e : LutStrat) (n sa da : Nat) {a : Nat} (ha : a < da ∨ da + n ≤ a) :
    memRead (convertLoop e n sa da s).dst a = memRead s.dst a := by
  rw [(convertLoop_stated e n sa da s hvalues hwf).2, if_neg (by omega)]

end

/-! ## A CONVERT that passes its checks -/

section
variable {i : Instr} {s : State}

/-- With its strategy supported, a valid table and the spans inside, a CONVERT runs its loop, under a direct strategy for
CONVERT.DIRECTF and CONVERT.DIRECTI only (42_lut_convert.md R170, R173). -/
theorem exec_convert_completed (hi : i ∈ convertCommands) (hs : Operating s) (hsup : strategySupported i s.cap = true)
    (hvalid : s.status.tableValid = true) (hspans : SpansInside s) :
    ∃ e, ((e = .directf ∨ e = .directi) ↔ (i = .convertDirectf ∨ i = .convertDirecti)) ∧
      exec i s = .next (answer .nothing (succeed (executedStrategy i s.cap)
        (convertLoop e s.ops.length.toNat s.ops.srcBase.toNat s.ops.dstBase.toNat s))) := by
  obtain ⟨st, hexec, hres, hdirect⟩ := exec_convert i hi
  rw [hexec, runGated_operating _ _ hs]
  obtain ⟨hr, -⟩ | ⟨e, -, hv, -⟩ | ⟨e, -, -, hb, -⟩ | ⟨e, hr, -, -, hcore⟩ := convertCore_cases st s
  · cases hsup.symm.trans ((hres _).unsupported hr)
  · cases hvalid.symm.trans hv
  · exact absurd hspans hb
  · exact ⟨e, hdirect _ e hr, by rw [hcore, ((hres _).supported hr).2]⟩

end

/-- Settles O22: the errors are those of R250's order; a command that completes leaves what its loop leaves. -/
theorem convertRule : Obligations.ConvertRule := by
  intro i hi s hs
  obtain ⟨_, hexec⟩ := exec_convert_completion hi hs
  have hcode := operandCode_convert s hi
  refine ⟨fun hsup => ?_, fun hsup hvalid => ?_, fun hsup hvalid hspans => ?_,
    fun hsup hvalid hspans hlength hwin hwf => ?_⟩
  · rw [hexec, completion_unsupported hsup, answer_raise_fatal _ _ rfl rfl]
  · rw [hexec, completion_failed .tableNotBuilt hsup (by rw [hcode, if_pos hvalid]) nofun,
      answer_raise_recoverable _ _ rfl rfl]
  · rw [hexec, completion_failed .outOfBounds hsup (by rw [hcode, hvalid, if_neg nofun, if_neg hspans]) nofun,
      answer_raise_fatal _ _ rfl rfl]
  · obtain ⟨e, hdirect, hrun⟩ := exec_convert_completed hi hs hsup hvalid hspans
    have hvalues : ValuesStated s := ⟨hlength, hwin⟩
    refine ⟨_, hrun, ?_, fun k hk => ?_, fun a ha => memRead_convertLoop_outside hvalues hwf e _ _ _ ha⟩
    · rw [(convertLoop_stated e _ _ _ s hvalues hwf).1]
      rfl
    · rw [answer_dst, succeed_dst, memRead_convertLoop_inside hvalues hwf e _ _ hk]
      split
      · next hnamed => exact statedValue_direct (hdirect.2 hnamed) _ s
      · next hnamed => exact table_getElem?_eq_statedValue (mt hdirect.1 hnamed) _ hlength

/-- Settles O23: with the table invariant every strategy's value is F. -/
theorem lookupAndDirectAgree : Obligations.LookupAndDirectAgree := by
  intro i hi s hs hsup hvalid htable hwf hspans
  obtain ⟨e, -, hexec⟩ := exec_convert_completed hi hs hsup hvalid hspans
  refine ⟨_, hexec, rfl, fun k hk => ?_⟩
  rw [answer_dst, succeed_dst, memRead_convertLoop_inside (valuesStated_of_tableOk htable hvalid) hwf e _ _ hk,
    statedValue_of_tableOk htable hvalid, remapByte_toNat]

/-! ## CREATE.AUTO of the window (0, 255), then CONVERT.AUTO (42_lut_convert.md R183) -/

/-- F of the window (0, 255): a ratio of 255 x to 255 needs no rounding, and only the upper end saturates. -/
theorem remap_zero_255 (x : Nat) : remap 0 255 (x : Int) = (min 255 x : Nat) := by
  have hratio : roundedRatio 0 255 (x : Int) = x := by
    rw [roundedRatio]
    omega
  rw [remap_eq_max_min, hratio]
  omega

/-- Settles O24: the CREATE leaves the table invariant with the window (0, 255), and the CONVERT writes F of it. -/
theorem createThenConvertClips : Obligations.CreateThenConvertClips := by
  intro s hs hmin hmax hwf hspans
  have hlow : sext32 s.ops.winMin = 0 := by rw [hmin]; rfl
  have hhigh : sext32 s.ops.winMax = 255 := by rw [hmax]; rfl
  have hwindow : WindowOk s := by rw [WindowOk, hlow, hhigh]; decide
  have hcreate := exec_create_completion (i := .createAuto) (by decide) hs
  rw [completion_ok rfl (by rw [operandCode_create s (by decide), if_pos hwindow])] at hcreate
  obtain ⟨u, hconvert, hok, hF⟩ := lookupAndDirectAgree .convertAuto (by decide)
    (answer .nothing (succeed (executedStrategy .createAuto s.cap) (buildTable s))) hs rfl rfl
    (tableOk_buildTable hwindow) hwf hspans
  refine ⟨_, u, hcreate, hconvert, hok, fun k hk => ?_⟩
  have hvalue := hF k hk
  simp only [answer_win, succeed_win, buildTable_win, hlow, hhigh, remap_zero_255] at hvalue
  exact_mod_cast hvalue

end Sys2Proof.Machine
end

section
/-! PROOFS. The geometry of a Calc (43_vhadd.md R192, R193, R197): a valid position is a column below NX and a row below
NY past (x_lo, y_lo), its index is their row-major number, and its window lies below max_idx. -/

namespace Sys2Proof.Machine

open Sys2Proof

section
variable {g : Geometry} {x y : Int}

/-- The rectangle of R192: two bounds of a valid position make one bound of it. -/
theorem validPosition_iff_rectangle :
    ValidPosition g x y ↔ xLo g ≤ x ∧ x ≤ xHi g ∧ yLo g ≤ y ∧ y ≤ yHi g := by
  rw [xLo, xHi, yLo, yHi]
  omega

/-- The valid positions, by column and row of the output. -/
theorem validPosition_iff_offsets : ValidPosition g x y ↔
    (0 ≤ x - xLo g ∧ x - xLo g < nX g) ∧ (0 ≤ y - yLo g ∧ y - yLo g < nY g) := by
  rw [validPosition_iff_rectangle, nX, nY]
  omega

/-! ## The output order (43_vhadd.md R193) -/

theorem resultIndex_nonneg (h : ValidPosition g x y) : 0 ≤ resultIndex g x y := by
  obtain ⟨⟨hcol, -⟩, hrow, -⟩ := validPosition_iff_offsets.1 h
  exact add_nonneg (mul_nonneg hrow (nX_nonneg g)) hcol

theorem resultIndex_lt (h : ValidPosition g x y) : resultIndex g x y < nPositions g := by
  obtain ⟨⟨-, hcol⟩, -, hrow⟩ := validPosition_iff_offsets.1 h
  calc (y - yLo g) * nX g + (x - xLo g) < (y - yLo g) * nX g + nX g := by omega
    _ = (y - yLo g + 1) * nX g := by ring
    _ ≤ nY g * nX g := mul_le_mul_of_nonneg_right hrow (nX_nonneg g)
    _ = nPositions g := mul_comm _ _

/-- x is read off the index (43_vhadd.md R193). -/
theorem resultIndex_emod (h : ValidPosition g x y) : xLo g + resultIndex g x y % nX g = x := by
  obtain ⟨⟨hcol, hcol'⟩, -⟩ := validPosition_iff_offsets.1 h
  rw [resultIndex, add_comm _ (x - xLo g), Int.add_mul_emod_self_right, Int.emod_eq_of_lt hcol hcol']
  ring

/-- y is read off the index (43_vhadd.md R193). -/
theorem resultIndex_ediv (h : ValidPosition g x y) : yLo g + resultIndex g x y / nX g = y := by
  obtain ⟨⟨hcol, hcol'⟩, -⟩ := validPosition_iff_offsets.1 h
  rw [resultIndex, add_comm _ (x - xLo g), Int.add_mul_ediv_right _ _ (by omega), Int.ediv_eq_zero_of_lt hcol hcol']
  ring

/-- Every index below N is that of the position it is read back as. -/
theorem exists_validPosition_of_lt {j : Int} (h0 : 0 ≤ j) (h : j < nPositions g) :
    ∃ x y, ValidPosition g x y ∧ resultIndex g x y = j := by
  have hpos : 0 < nX g := (nX_nonneg g).lt_of_ne fun hzero => by
    rw [nPositions, ← hzero, zero_mul] at h
    omega
  refine ⟨xLo g + j % nX g, yLo g + j / nX g, validPosition_iff_offsets.2 ?_, ?_⟩
  · simp only [add_sub_cancel_left]
    exact ⟨⟨Int.emod_nonneg _ hpos.ne', Int.emod_lt_of_pos _ hpos⟩, Int.ediv_nonneg h0 hpos.le,
      Int.ediv_lt_of_lt_mul hpos (by rwa [mul_comm])⟩
  · simp only [resultIndex, add_sub_cancel_left]
    rw [mul_comm, Int.mul_ediv_add_emod]

end

/-- Settles O25: the numbers are the definitions, the positions those of the rectangle. -/
theorem validPositionsRectangle : Obligations.ValidPositionsRectangle := fun _ _ _ =>
  ⟨rfl, rfl, rfl, rfl, rfl, rfl, rfl, validPosition_iff_rectangle⟩

/-- Settles O26: column and row of the output are remainder and quotient of the index by NX. -/
theorem resultIndexBijection : Obligations.ResultIndexBijection := fun _ =>
  ⟨fun _ _ h => ⟨resultIndex_nonneg h, resultIndex_lt h, (resultIndex_emod h).symm, (resultIndex_ediv h).symm⟩,
    fun _ h0 h => exists_validPosition_of_lt h0 h⟩

/-! ## Bounds (43_vhadd.md R197) -/

/-- Row-major indices are ordered as rows and columns are. -/
theorem rowMajor_le {w r r' c c' : Int} (hw : 0 ≤ w) (hr : r ≤ r') (hc : c ≤ c') : r * w + c ≤ r' * w + c' :=
  add_le_add (mul_le_mul_of_nonneg_right hr hw) hc

/-- Settles O27: the last window's last row and column are the highest of all windows, and inside the image. -/
theorem windowsCoveredByMaxIdx : Obligations.WindowsCoveredByMaxIdx := by
  intro g x y k l _ _ hxy hk hk' hl hl'
  obtain ⟨-, hx, -, hy⟩ := validPosition_iff_rectangle.1 hxy
  obtain ⟨hx0, hxw, -, -, hleft, -, htop, -⟩ := hxy
  have hw : 0 ≤ g.imgW := by omega
  refine ⟨add_nonneg (mul_nonneg (by omega) hw) (by omega), rowMajor_le hw (by omega) (by omega), ?_⟩
  calc maxIdx g ≤ (g.imgH - 1) * g.imgW + (g.imgW - 1) := by
        refine rowMajor_le hw ?_ ?_
        · rw [yHi]; omega
        · rw [xHi]; omega
    _ = g.imgW * g.imgH - 1 := by ring

end Sys2Proof.Machine
end

section
/-! PROOFS. The sums of a Calc (43_vhadd.md R194 to R196): their numbers, and what the sliding window drops and adds. -/

namespace Sys2Proof.Machine

open Sys2Proof

theorem vSum_eq (s : State) (x y : Int) : vSum s x y = BitVec.ofNat 16 (∑ k ∈ Finset.range s.ops.vext.toNat,
    imageSample s (x + sext32 s.ops.offsetX) (y + sext32 s.ops.offsetY + (k : Int))) :=
  congrArg (BitVec.ofNat 16) (sumTo_eq_sum _ _)

theorem hSum_eq (s : State) (x y : Int) : hSum s x y = BitVec.ofNat 16 (∑ k ∈ Finset.range s.ops.hext.toNat,
    imageSample s (x + sext32 s.ops.offsetX + (k : Int)) (y + sext32 s.ops.offsetY)) :=
  congrArg (BitVec.ofNat 16) (sumTo_eq_sum _ _)

/-- A sum over a window moved by one, in `w`-bit arithmetic. -/
theorem ofNat_sum_slide {w : Nat} (n : Nat) (f : Int → Nat) (a : Int) :
    BitVec.ofNat w (∑ k ∈ Finset.range n, f (a + 1 + (k : Int))) =
      BitVec.ofNat w (∑ k ∈ Finset.range n, f (a + (k : Int))) - BitVec.ofNat w (f a) + BitVec.ofNat w (f (a + n)) := by
  have hends :
      ∑ k ∈ Finset.range n, f (a + 1 + (k : Int)) + f a = ∑ k ∈ Finset.range n, f (a + (k : Int)) + f (a + n) := by
    rw [← Finset.sum_range_succ fun k : Nat => f (a + (k : Int)), Finset.sum_range_succ']
    simp [add_assoc, add_comm (1 : Int)]
  rw [sub_add_eq_add_sub, eq_sub_iff_add_eq, ← BitVec.ofNat_add, ← BitVec.ofNat_add, hends]

/-- Settles O31: both sums are over a window along one coordinate. -/
theorem slidingSums : Obligations.SlidingSums := by
  intro s x y
  constructor
  · rw [vSum_eq, vSum_eq, add_right_comm y 1]
    exact ofNat_sum_slide _ (imageSample s _) _
  · rw [hSum_eq, hSum_eq, add_right_comm x 1]
    exact ofNat_sum_slide _ (imageSample s · _) _

end Sys2Proof.Machine
end

section
/-! PROOFS. What a Calc leaves (43_vhadd.md R200), that CALCVH is CALCV and CALCH (R216), and the results as the host reads
them (R193 to R195). -/

namespace Sys2Proof.Machine

open Sys2Proof

/-! ## The commands of a Calc -/

theorem exists_mem_calcCommands {i : Instr} (hi : i ∈ calcvCommands ++ calchCommands ++ calcvhCommands) :
    ∃ op, i ∈ calcCommands op := by
  obtain hi | hi := List.mem_append.1 hi
  · obtain hi | hi := List.mem_append.1 hi
    · exact ⟨.calcv, hi⟩
    · exact ⟨.calch, hi⟩
  · exact ⟨.calcvh, hi⟩

/-- CALCH is the one operation without a vertical pass, CALCV the one without a horizontal pass. -/
theorem mem_passes_iff (op : VhOp) : ∀ i ∈ calcCommands op,
    (i ∈ calchCommands ↔ computesV op = false) ∧ (i ∈ calcvCommands ↔ computesH op = false) := by
  cases op <;> decide

theorem exists_verticalPass {i : Instr} (hi : i ∈ calcvCommands ++ calcvhCommands) :
    ∃ op, computesV op = true ∧ i ∈ calcCommands op :=
  (List.mem_append.1 hi).elim (⟨.calcv, rfl, ·⟩) (⟨.calcvh, rfl, ·⟩)

theorem exists_horizontalPass {i : Instr} (hi : i ∈ calchCommands ++ calcvhCommands) :
    ∃ op, computesH op = true ∧ i ∈ calcCommands op :=
  (List.mem_append.1 hi).elim (⟨.calch, rfl, ·⟩) (⟨.calcvh, rfl, ·⟩)

/-! ## What a completed Calc leaves -/

/-- The state a completed Calc leaves; `i` says which strategy stands in LAST_STRAT. -/
def afterCalc (op : VhOp) (i : Instr) (s : State) : State :=
  answer .nothing (succeed (executedStrategy i s.cap) (storeResults op s))

section
variable {op : VhOp} {i : Instr} {s : State}

theorem exec_calc_afterCalc (hi : i ∈ calcCommands op) (hs : Operating s) (hsup : strategySupported i s.cap = true)
    (hcode : operandCode i s = .ok) : exec i s = .next (afterCalc op i s) := by
  rw [exec_calc_completion op hi hs, completion_ok hsup hcode, afterCalc]

theorem eq_afterCalc_of_ok {t : State} (hi : i ∈ calcCommands op) (hs : Operating s) (h : exec i s = .next t)
    (hok : t.status.lastCode = .ok) : t = afterCalc op i s := by
  rw [exec_calc_completion op hi hs] at h
  obtain rfl := Host.Outcome.next.inj h
  exact congrArg (answer .nothing) (completion_eq_of_ok hok).2.2

/-! ## The result registers and memories -/

theorem xLo_toNat (s : State) : ((trunc32 (xLo (geometry s))).toNat : Int) = xLo (geometry s) := by
  have hox : (geometry s).ox = sext32 s.ops.offsetX := rfl
  have hrange := sext32_range s.ops.offsetX
  exact trunc32_toNat _ (by rw [xLo]; omega) (by rw [xLo]; omega)

theorem yLo_toNat (s : State) : ((trunc32 (yLo (geometry s))).toNat : Int) = yLo (geometry s) := by
  have hoy : (geometry s).oy = sext32 s.ops.offsetY := rfl
  have hrange := sext32_range s.ops.offsetY
  exact trunc32_toNat _ (by rw [yLo]; omega) (by rw [yLo]; omega)

/-- The result of a valid position stands at its index (43_vhadd.md R193). -/
theorem positionResults_resultIndex {g : Geometry} {x y : Int} (f : Int → Int → Sample) (h : ValidPosition g x y) :
    (positionResults g f)[(resultIndex g x y).toNat]? = some (f x y) := by
  have hindex := Int.toNat_of_nonneg (resultIndex_nonneg h)
  rw [positionResults_getElem? g f _ (hindex.symm ▸ resultIndex_lt h), hindex, resultIndex_emod h, resultIndex_ediv h]

section
variable (hwf : s.cfg.WF)
include hwf

theorem nPositions_toNat : ((trunc32 (nPositions (geometry s))).toNat : Int) = nPositions (geometry s) := by
  rw [← (passOk_positionResults hwf (vSum s)).1, positionResults_length]

theorem calcCompletes_afterCalc (op : VhOp) (i : Instr) : CalcCompletes i s (afterCalc op i s) := by
  obtain ⟨-, hw, -, hh, -, -⟩ := hwf
  have hx : nX (geometry s) ≤ s.cfg.imgW := nX_le _ (Int.natCast_nonneg _)
  have hy : nY (geometry s) ≤ s.cfg.imgH := nY_le _ (Int.natCast_nonneg _)
  exact ⟨rfl, trunc32_toNat _ (nX_nonneg _) (by omega), trunc32_toNat _ (nY_nonneg _) (by omega), xLo_toNat s,
    yLo_toNat s⟩

theorem verticalResult_afterCalc (i : Instr) (hop : computesV op = true) : VerticalResult s (afterCalc op i s) := by
  have hvres : (afterCalc op i s).vres = positionResults (geometry s) (vSum s) := if_pos hop
  have hlen : (afterCalc op i s).res.vLen = trunc32 (nPositions (geometry s)) := if_pos hop
  rw [VerticalResult, hvres, hlen]
  refine ⟨nPositions_toNat hwf, positionResults_length _ _, fun x y hxy => ⟨_, positionResults_resultIndex _ hxy, ?_⟩⟩
  rw [vSum_eq, BitVec.toNat_ofNat]

theorem horizontalResult_afterCalc (i : Instr) (hop : computesH op = true) : HorizontalResult s (afterCalc op i s) := by
  have hhres : (afterCalc op i s).hres = positionResults (geometry s) (hSum s) := if_pos hop
  have hlen : (afterCalc op i s).res.hLen = trunc32 (nPositions (geometry s)) := if_pos hop
  rw [HorizontalResult, hhres, hlen]
  refine ⟨nPositions_toNat hwf, positionResults_length _ _, fun x y hxy => ⟨_, positionResults_resultIndex _ hxy, ?_⟩⟩
  rw [hSum_eq, BitVec.toNat_ofNat]

end

theorem vres_afterCalc_invalid (i : Instr) (s : State) (hop : computesV op = false) :
    (afterCalc op i s).vres = [] ∧ (afterCalc op i s).res.vLen = 0 := by
  simp [afterCalc, storeResults, hop]

theorem hres_afterCalc_invalid (i : Instr) (s : State) (hop : computesH op = false) :
    (afterCalc op i s).hres = [] ∧ (afterCalc op i s).res.hLen = 0 := by
  simp [afterCalc, storeResults, hop]

end

/-- Settles O30: each command leaves what its operation stores, and the passes of CALCVH are those of the two others. -/
theorem calcvhIsCalcvPlusCalch : Obligations.CalcvhIsCalcvPlusCalch := by
  intro iv hv ih hh ib hb s v h b hs hexecv hexech hexecb hokv hokh hokb
  obtain rfl := eq_afterCalc_of_ok (op := .calcv) hv hs hexecv hokv
  obtain rfl := eq_afterCalc_of_ok (op := .calch) hh hs hexech hokh
  obtain rfl := eq_afterCalc_of_ok (op := .calcvh) hb hs hexecb hokb
  exact ⟨rfl, rfl, rfl, rfl, rfl, rfl, rfl, rfl, rfl, rfl, rfl, rfl⟩

/-- Settles O28: the errors are those of R250's order; a command that completes leaves what its operation stores. -/
theorem calcRule : Obligations.CalcRule := by
  intro i hi s hwf hs
  obtain ⟨op, hop⟩ := exists_mem_calcCommands hi
  have hexec := exec_calc_completion op hop hs
  have hcode := operandCode_calc s hi
  refine ⟨fun hsup => ?_, fun hsup hext => ?_, fun hsup hext hwin => ?_, fun hsup hext hwin => ?_⟩
  · rw [hexec, completion_unsupported hsup, answer_raise_fatal _ _ rfl rfl]
  · rw [hexec, completion_failed .badGeometry hsup (by rw [hcode, if_pos hext]) nofun,
      answer_raise_recoverable _ _ rfl rfl]
  · rw [hexec, completion_failed .outOfBounds hsup (by rw [hcode, if_neg (not_not.2 hext), if_neg hwin]) nofun,
      answer_raise_fatal _ _ rfl rfl]
  · obtain ⟨hV, hH⟩ := mem_passes_iff op i hop
    refine ⟨_, exec_calc_afterCalc hop hs hsup (by rw [hcode, if_neg (not_not.2 hext), if_pos hwin]),
      calcCompletes_afterCalc hwf op i, ?_, ?_⟩
    · split
      · next hcalch => exact vres_afterCalc_invalid i s (hV.1 hcalch)
      · next hcalch => exact verticalResult_afterCalc hwf i (Bool.of_not_eq_false (mt hV.2 hcalch))
    · split
      · next hcalcv => exact hres_afterCalc_invalid i s (hH.1 hcalcv)
      · next hcalcv => exact horizontalResult_afterCalc hwf i (Bool.of_not_eq_false (mt hH.2 hcalcv))

/-! ## The results as the host reads them (10_state.md R35, 43_vhadd.md R193) -/

/-- RES_IDX can hold the index of a valid position, which is below the length of its pass. -/
theorem exists_resIdx {s : State} {x y : Int} {len : Word} {entries : List Sample} {v : Sample}
    (hlen : (len.toNat : Int) = nPositions (geometry s)) (hxy : ValidPosition (geometry s) x y)
    (hv : entries[(resultIndex (geometry s) x y).toNat]? = some v) :
    ∃ idx : Word, (idx.toNat : Int) = resultIndex (geometry s) x y ∧ (idx.toNat : Int) < nPositions (geometry s) ∧
      idx.toNat < len.toNat ∧ entries[idx.toNat]? = some v := by
  have hlt := resultIndex_lt hxy
  have hidx := trunc32_toNat _ (resultIndex_nonneg hxy) (by omega)
  rw [← hidx, Int.toNat_natCast] at hv
  exact ⟨_, hidx, by omega, by omega, hv⟩

/-- Settles O29: a Calc that completed has left its passes' results, and the index is turned back as O26 says. -/
theorem sumsReadBack : Obligations.SumsReadBack := by
  intro i s t hwf hs hexec hok
  refine ⟨fun hi x y hxy => ?_, fun hi x y hxy => ?_, fun hi => ?_⟩
  · obtain ⟨op, hpass, hop⟩ := exists_verticalPass hi
    obtain rfl := eq_afterCalc_of_ok hop hs hexec hok
    obtain ⟨hlen, -, hentry⟩ := verticalResult_afterCalc hwf i hpass
    obtain ⟨v, hv, hsum⟩ := hentry x y hxy
    obtain ⟨idx, hidx, hN, hlt, hread⟩ := exists_resIdx hlen hxy hv
    exact ⟨idx, hidx, hN, hsum ▸ exec_regr .vresData (readRegister_vresData_entry hlt hread)⟩
  · obtain ⟨op, hpass, hop⟩ := exists_horizontalPass hi
    obtain rfl := eq_afterCalc_of_ok hop hs hexec hok
    obtain ⟨hlen, -, hentry⟩ := horizontalResult_afterCalc hwf i hpass
    obtain ⟨v, hv, hsum⟩ := hentry x y hxy
    obtain ⟨idx, hidx, hN, hlt, hread⟩ := exists_resIdx hlen hxy hv
    exact ⟨idx, hidx, hN, hsum ▸ exec_regr .hresData (readRegister_hresData_entry hlt hread)⟩
  · obtain ⟨op, hop⟩ := exists_mem_calcCommands hi
    obtain rfl := eq_afterCalc_of_ok hop hs hexec hok
    refine ⟨xLo_toNat s, yLo_toNat s, fun x y hxy j hj => ?_⟩
    rw [show j = resultIndex (geometry s) x y from hj]
    exact ⟨(resultIndex_emod hxy).symm, (resultIndex_ediv hxy).symm⟩

end Sys2Proof.Machine
end

section
/-! PROOFS. The control command CLRERR (44_control.md). -/

namespace Sys2Proof.Machine

open Sys2Proof

/-- CLRERR is gated like every command, and its body is the acknowledgement (44_control.md R230). -/
theorem exec_clrerr (s : State) : exec .clrerr s = runGated acknowledge s := rfl

/-- CLRERR in the operating condition writes two fields of STATUS and no other state (44_control.md R230). -/
theorem answer_acknowledge (s : State) :
    answer .nothing (acknowledge s) =
      { s with status := { s.status with errSticky := false, lastCode := .ok }, reply := .nothing } := rfl

/-- Settles O32: past the gate the body is the acknowledgement; in the FAULT state the gate stops the command. -/
theorem clrerrRule : Obligations.ClrerrRule := by
  intro s
  constructor
  · intro hop
    rw [exec_clrerr, runGated_operating _ _ hop, answer_acknowledge]
  · intro hf
    exact (exec_clrerr s).trans (runGated_inFault _ _ hf)

end Sys2Proof.Machine
end

section
/-! PROOFS. Errors (60_exceptions.md): what an instruction leaves in STATUS, said once over the effects, and from it the
order of checks (R250), precision (R246), the FAULT state (R247) and the status invariant. -/

namespace Sys2Proof.Machine

open Sys2Proof

/-! ## What an instruction leaves in STATUS -/

section
variable {i : Instr} {s t : State} {w : Word}

/-- STATUS is kept, in the FAULT state or by a transaction that is no REGW to CMD; or a command ended with an error, in the
operating condition; or a command ended with OK, or RESET came, and FAULT is clear afterwards. -/
theorem Effect.status_cases (h : Effect i s t) :
    ((InFault s ∨ ∀ w, i ≠ .regw cmdOffset w) ∧ t.status = s.status) ∨
    (Operating s ∧ ∃ c ≠ .ok, t = answer .nothing (raise c s)) ∨
    (Operating t ∧ t.status.lastCode = .ok) := by
  cases h with
  | ignored _ hf => exact .inl ⟨.inl hf, rfl⟩
  | error _ c hop hc => exact .inr (.inl ⟨hop, c, hc, rfl⟩)
  | created _ _ hop | calculated _ _ _ hop | acknowledged _ hop => exact .inr (.inr ⟨hop, rfl⟩)
  | converted _ _ _ hop => exact .inr (.inr ⟨by simpa [Operating] using hop, rfl⟩)
  | wroteRegister off data hi hc => exact .inl ⟨.inr (by simp [hi, hc]), by simp⟩
  | readRegister _ hi | wroteSource _ _ hi | readSource _ hi | wroteDestination _ _ hi | readDestination _ hi =>
    exact .inl ⟨.inr (by simp [hi]), by simp⟩
  | wasReset => exact .inr (.inr ⟨rfl, rfl⟩)

/-- In the operating condition a REGW to CMD ends with OK or raises its code and does nothing else. -/
theorem exec_regw_cmd_ends (hs : Operating s) (h : exec (.regw cmdOffset w) s = .next t) :
    t.status.lastCode = .ok ∨ ∃ c, t = answer .nothing (raise c s) := by
  obtain ⟨hf | hcmd, -⟩ | ⟨-, c, -, ht⟩ | ⟨-, hok⟩ := (exec_effect h).status_cases
  · exact absurd (hs.symm.trans hf) nofun
  · exact absurd rfl (hcmd w)
  · exact .inr ⟨c, ht⟩
  · exact .inl hok

/-- The one code of a command in the operating condition (60_exceptions.md R250, steps 2 to 6). -/
theorem exec_command_lastCode (hi : i ∈ allCommands) (hs : Operating s) : ∃ t, exec i s = .next t ∧
    t.status.lastCode =
      if i = .clrerr then .ok else if strategySupported i s.cap = false then .capMismatch else operandCode i s := by
  by_cases hclrerr : i = .clrerr
  · subst hclrerr
    exact ⟨_, runGated_operating acknowledge s hs, rfl⟩
  · obtain ⟨done, hexec⟩ := exec_completion hi hclrerr hs
    refine ⟨_, hexec, ?_⟩
    rw [if_neg hclrerr, answer_status, completion_lastCode]

end

/-- Settles O33: the gate, the illegal word, then the chain of `exec_command_lastCode`; a command that does not end with OK
has only raised its code. -/
theorem priorityOfChecks : Obligations.PriorityOfChecks := by
  refine fun s w => ⟨exec_regw_cmd_inFault, fun hs e he => ⟨_, exec_regw_cmd_illegal he hs, rfl⟩, fun hs i hi => ?_⟩
  obtain ⟨t, hexec, hcode⟩ := exec_command_lastCode (decode_isCommand w i hi) hs
  have hregw : exec (.regw cmdOffset w) s = .next t := (exec_regw_cmd_legal hi).trans hexec
  refine ⟨t, hregw, hcode, (exec_regw_cmd_ends hs hregw).imp_right ?_⟩
  rintro ⟨c, rfl⟩
  rfl

/-- Settles O34: a code other than OK was raised, and a recoverable one leaves FAULT alone. -/
theorem recoverableErrorsArePrecise : Obligations.RecoverableErrorsArePrecise := by
  intro w s t hs h hcode
  have recoverable : ∀ c ∈ ([.invalidWindow, .illegalCmd, .tableNotBuilt, .badGeometry] : List CompletionCode),
      c ≠ .ok ∧ isRecoverable c = true ∧ isFatal c = false := by decide
  obtain ⟨hok, hrec, hfatal⟩ := recoverable _ hcode
  obtain ⟨c, rfl⟩ := (exec_regw_cmd_ends hs h).resolve_left hok
  have hend : answer .nothing (raise c s) = afterRecoverable c s := answer_raise_recoverable c s hrec hfatal
  exact ⟨hend, hend ▸ hs⟩

/-! ## The FAULT bit and the transactions that are no command -/

/-- The state with FAULT set. -/
def setFault (s : State) : State := { s with status := { s.status with fault := true } }

section
variable {s t : State}

@[simp] theorem setFault_tableValid : (setFault s).status.tableValid = s.status.tableValid := rfl
@[simp] theorem setFault_ops : (setFault s).ops = s.ops := rfl
@[simp] theorem setFault_table : (setFault s).table = s.table := rfl

theorem readTableByte_setFault : readTableByte (setFault s) = ((readTableByte s).1, setFault (readTableByte s).2) := by
  by_cases hvalid : s.status.tableValid = true
  · simp only [readTableByte, setFault_tableValid, setFault_table, setFault_ops, hvalid, if_true]
    split <;> rfl
  · simp [readTableByte, hvalid, drawByte, setFault]

theorem readScratchSample_setFault (entries : List Sample) (len : Word) :
    readScratchSample entries len (setFault s) =
      ((readScratchSample entries len s).1, setFault (readScratchSample entries len s).2) := by
  by_cases hlt : s.ops.resIdx.toNat < len.toNat
  · simp only [readScratchSample, setFault_ops, hlt, if_true]
    split <;> rfl
  · simp [readScratchSample, hlt, drawSample, setFault]

/-- STATUS is the one register that shows the FAULT bit (10_state.md R27). -/
theorem readRegister_setFault {r : Register} (hr : r ≠ .status) :
    readRegister r (setFault s) = ((readRegister r s).1, setFault (readRegister r s).2) := by
  cases r with
  | status => exact absurd rfl hr
  | tblData => simp only [readRegister, readTableByte_setFault]
  | vresData | hresData => exact congrArg (fun p => (0#16 ++ p.1, p.2)) (readScratchSample_setFault _ _)
  | _ => rfl

theorem readOffset_setFault {off : BitVec 12} (hoff : off ≠ offsetOf .status) :
    readOffset off (setFault s) = ((readOffset off s).1, setFault (readOffset off s).2) := by
  unfold readOffset
  split
  · next r hr =>
    refine readRegister_setFault ?_
    rintro rfl
    exact hoff (eq_offsetOf_of_registerAt hr)
  · rfl

theorem writeOffset_setFault (off : BitVec 12) (data : Word) :
    writeOffset off data (setFault s) = setFault (writeOffset off data s) := by
  unfold writeOffset
  split <;> rfl

/-- A transaction behind a check that does not read the FAULT bit passes it as without the bit. -/
theorem checked_setFault {p : Prop} [Decidable p] {r : Refusal}
    (h : (if p then .next s else .refused r : Host.Outcome State Fault Refusal) = .next t) :
    (if p then .next (setFault s) else .refused r : Host.Outcome State Fault Refusal) = .next (setFault t) := by
  split at h
  · next hp => rw [if_pos hp, Host.Outcome.next.inj h]
  · cases h

/-- A transaction that is no command does what it does with FAULT clear; RESET clears the bit and STATUS shows it
(60_exceptions.md R247). -/
theorem exec_setFault {i : Instr} (hi : i ∉ allCommands) (hcmd : ∀ w, i ≠ .regw cmdOffset w)
    (hstatus : i ≠ .regr (offsetOf .status)) (hreset : i ≠ .reset) (h : exec i s = .next t) :
    exec i (setFault s) = .next (setFault t) := by
  cases i with
  | regw off data =>
    have hoff : off ≠ cmdOffset := fun ho => hcmd data (by rw [ho])
    have halign := (exec_regw_next_iff off data s).1 ⟨t, h⟩
    rw [exec_regw_aligned data _ halign hoff] at h ⊢
    rw [writeOffset_setFault, ← Host.Outcome.next.inj h]
    rfl
  | regr off =>
    have hoff : off ≠ offsetOf .status := fun ho => hstatus (by rw [ho])
    simp only [exec, execRegr, readOffset_setFault hoff]
    exact (checked_setFault h :)
  | srcw | srcr | dstw | dstr => exact (checked_setFault h :)
  | reset => exact absurd rfl hreset
  | _ => exact absurd (by decide) hi

end

/-- Settles O35: a fatal code was raised; the gate stops commands in the FAULT state, no other transaction but RESET and a
REGR of STATUS reads or writes the bit, and RESET clears it. -/
theorem fatalFaultsStopCommandsUntilReset : Obligations.FatalFaultsStopCommandsUntilReset := by
  refine ⟨fun w s t hs h hcode => ?_, fun _ _ => exec_regw_cmd_inFault, fun _ hi _ => exec_command_inFault hi,
    fun i s t => exec_setFault, fun i s t hf hi h => ?_, fun s => ⟨_, rfl, rfl⟩⟩
  · have fatal : ∀ c ∈ ([.capMismatch, .outOfBounds] : List CompletionCode),
        c ≠ .ok ∧ isFatal c = true ∧ isRecoverable c = false := by decide
    obtain ⟨hok, hfatal, hrec⟩ := fatal _ hcode
    obtain ⟨c, rfl⟩ := (exec_regw_cmd_ends hs h).resolve_left hok
    have hend : answer .nothing (raise c s) = afterFatal c s := answer_raise_fatal c s hfatal hrec
    exact ⟨hend, hend ▸ rfl⟩
  · exact (congrArg Status.fault ((exec_effect h).status_of_inFault hf hi)).trans hf

/-! ## The status invariant -/

/-- Every effect keeps the status invariant. -/
theorem Effect.statusOk {i : Instr} {s t : State} (h : Effect i s t) (hs : StatusOk s) : StatusOk t := by
  obtain ⟨-, hkept⟩ | ⟨hop, c, -, rfl⟩ | ⟨hop, hok⟩ := h.status_cases
  · rwa [StatusOk, hkept]
  · simp only [StatusOk, answer_status, raise_status, statusOnError_fault, statusOnError_errSticky,
      statusOnError_lastCode, show s.status.fault = false from hop]
    cases c <;> simp [isFatal, isRecoverable]
  · simp [StatusOk, hok, show t.status.fault = false from hop]

/-- Settles O44: an error sets the bit of its kind, after OK and RESET FAULT is clear, all else keeps STATUS. -/
theorem statusInvariantKept : Obligations.StatusInvariantKept :=
  fun _ _ hs h => step_keeps (fun _ _ hs => hs) Effect.statusOk h hs

end Sys2Proof.Machine
end
